-- ==== Sys2Proof/Word.lean ====
section
/-! DEFINITION. The machine's word and byte types (R12 of 00_scope.md: u32 and u8). -/

namespace Sys2Proof

/-- A register, a command word, a host address or a host datum: 32 bits (R15 of 10_state.md, R54 of 30_encoding.md). -/
abbrev Word := BitVec 32

/-- One byte of a memory space (R33 of 20_memory.md). -/
abbrev Byte := BitVec 8

end Sys2Proof
end

