-- ==== Sys2Proof/Config.lean ====
section
/-! DEFINITION. What an implementation fixes (R10 of 00_scope.md) and the constants of the block. -/

namespace Sys2Proof

/-- The four memory spaces (R33 of 20_memory.md). -/
inductive Space where
  | src
  | scn
  | pay
  | snk
deriving DecidableEq, Repr

/-- The memory-size parameters SRC_SIZE, SCN_SIZE, PAY_SIZE and SNK_SIZE (R10 of 00_scope.md), in bytes.
They are an argument of the model: State carries them and no step changes them (log 1). -/
structure Sizes where
  src : Nat
  scn : Nat
  pay : Nat
  snk : Nat
deriving DecidableEq, Repr

/-- `SIZE(S)` (R33 of 20_memory.md, R57 of 30_encoding.md). -/
def Sizes.of (z : Sizes) : Space → Nat
  | .src => z.src
  | .scn => z.scn
  | .pay => z.pay
  | .snk => z.snk

/-- The largest legal value of each size parameter, 2^28 (R10 of 00_scope.md). -/
def Config.maxSize : Nat := 268435456

/-- The sizes the test vectors are stated for (95_test_vectors.md: 4096 each), used by State.reset only.
DESIGN CHOICE, log 1: R10 leaves the sizes open. -/
def Config.vectorSizes : Sizes := { src := 4096, scn := 4096, pay := 4096, snk := 4096 }

/-- What a byte that no memory list names reads as. R47 of 20_memory.md leaves the contents after
power-on unspecified. DESIGN CHOICE, unsafe, log 2: statements about every State hold for every contents,
since every contents is some list. -/
def Config.unlistedByte : Byte := 0x00#8

/-- The constant VERSION register (R18 of 10_state.md). -/
def Config.version : Word := 0x00000007#32

end Sys2Proof
end

