-- ==== Sys2Proof/Syntax.lean ====
section
/-! DEFINITION. The commands of the block: one constructor per row of spec/opcode_table.json. -/

namespace Sys2Proof

/-- The fourteen commands (R60 of 30_encoding.md). A command that takes an address, a length or a row index
reads it from ARG0 and ARG1 when it executes (R59), so only CRCB and CRCUPD carry an operand. -/
inductive Instr where
  /-- No operation (R67). -/
  | nop
  /-- Every register back to its reset value (R68). -/
  | reset
  /-- Parse and validate the BMP headers in SRC (R73). -/
  | parse
  /-- Transcode the output row ARG0 (R93). -/
  | xrow
  /-- Transcode the whole image (R94). -/
  | xall
  /-- Start a CRC (R98). -/
  | crcinit
  /-- Fold the immediate byte IMM8 into the CRC (R99). -/
  | crcb (imm8 : Byte)
  /-- Fold ARG1 bytes of the space SPC from address ARG0 on into the CRC (R100). -/
  | crcupd (spc : Space)
  /-- Finalise the CRC (R101). -/
  | crcfin
  /-- Write the PNG signature (R112). -/
  | pngsig
  /-- Write the IHDR chunk (R113). -/
  | ihdr
  /-- Write the PLTE chunk (R114). -/
  | plte
  /-- Write the IDAT chunk from the host's zlib stream (R115). -/
  | idat
  /-- Write the IEND chunk (R116). -/
  | iend
deriving DecidableEq, Repr

end Sys2Proof
end

