-- ==== Sys2Proof/WellFormed.lean ====
section
/-! DEFINITION. Which commands and which parameters are well formed. -/

namespace Sys2Proof

/-- Every term of Instr is well formed: IMM8 is any byte (R58 of 30_encoding.md) and all four values of SPC are
legal (R57). The match names every constructor so that a new one cannot slip past. -/
def Instr.wellFormed : Instr → Bool
  | .nop | .reset | .parse | .xrow | .xall | .crcinit | .crcb _ | .crcupd _ | .crcfin => true
  | .pngsig | .ihdr | .plte | .idat | .iend => true

/-- One size parameter is legal: an integer from 1 to 2^28 (R10 of 00_scope.md). -/
def Sizes.legal (n : Nat) : Bool := decide (1 ≤ n) && decide (n ≤ Config.maxSize)

/-- All four size parameters are legal (R10 of 00_scope.md). -/
def Sizes.wellFormed (z : Sizes) : Bool :=
  Sizes.legal z.src && Sizes.legal z.scn && Sizes.legal z.pay && Sizes.legal z.snk

end Sys2Proof
end

