-- ==== Sys2Proof/Decode.lean ====
section
/-! DEFINITION. The decoder, total on every 32-bit word (R61 of 30_encoding.md), and the encoder. -/

namespace Sys2Proof

/-- The opcode of a row of the opcode table, without operands (R60 of 30_encoding.md). -/
inductive Op where
  | nop | reset | parse | xrow | xall | crcinit | crcb | crcupd | crcfin | pngsig | ihdr | plte | idat | iend
deriving DecidableEq, Repr

/-- One row of the opcode table: a word is this row's when its bits under `mask` are `pattern` (R61). -/
structure Row where
  op : Op
  mask : Word
  pattern : Word
deriving DecidableEq, Repr

/-- Why a word is illegal (R62 of 30_encoding.md). -/
inductive IllegalWord where
  /-- Its OPC is none of the fourteen of R60. -/
  | reservedOpcode
  /-- Its OPC is one of them and a bit its format requires to be zero is 1. -/
  | reservedBits
deriving DecidableEq, Repr

/-- What the decoder answers. -/
inductive Decoded where
  | instr (i : Instr)
  | illegal (why : IllegalWord)
deriving DecidableEq, Repr

/-- The opcode table (R56, R60, R61 of 30_encoding.md): format N rows fix all 32 bits, CRCB leaves IMM8 free,
CRCUPD leaves SPC free. -/
def opcodeRows : List Row :=
  [ { op := .nop, mask := 0xFFFFFFFF#32, pattern := 0x00000000#32 },
    { op := .reset, mask := 0xFFFFFFFF#32, pattern := 0x00000001#32 },
    { op := .parse, mask := 0xFFFFFFFF#32, pattern := 0x00000010#32 },
    { op := .xrow, mask := 0xFFFFFFFF#32, pattern := 0x00000020#32 },
    { op := .xall, mask := 0xFFFFFFFF#32, pattern := 0x00000021#32 },
    { op := .crcinit, mask := 0xFFFFFFFF#32, pattern := 0x00000030#32 },
    { op := .crcb, mask := 0xFF00FFFF#32, pattern := 0x00000031#32 },
    { op := .crcupd, mask := 0xFFFFFCFF#32, pattern := 0x00000032#32 },
    { op := .crcfin, mask := 0xFFFFFFFF#32, pattern := 0x00000033#32 },
    { op := .pngsig, mask := 0xFFFFFFFF#32, pattern := 0x00000040#32 },
    { op := .ihdr, mask := 0xFFFFFFFF#32, pattern := 0x00000041#32 },
    { op := .plte, mask := 0xFFFFFFFF#32, pattern := 0x00000042#32 },
    { op := .idat, mask := 0xFFFFFFFF#32, pattern := 0x00000043#32 },
    { op := .iend, mask := 0xFFFFFFFF#32, pattern := 0x00000044#32 } ]

/-- `(cmd AND mask) = match` (R61). -/
def Row.accepts (r : Row) (w : Word) : Bool := w &&& r.mask == r.pattern

/-- The OPC field, bits [7:0] (R55). -/
def opcField (w : Word) : BitVec 8 := w.extractLsb' 0 8

/-- The SPC field, bits [9:8] (R55, R57). -/
def spcField (w : Word) : BitVec 2 := w.extractLsb' 8 2

/-- The IMM8 field, bits [23:16] (R55, R58). -/
def imm8Field (w : Word) : Byte := w.extractLsb' 16 8

/-- The space a value of SPC names: 0 = SRC, 1 = SCN, 2 = PAY, 3 = SNK (R57). -/
def Space.ofCode (c : BitVec 2) : Space :=
  if c = 0#2 then .src else if c = 1#2 then .scn else if c = 2#2 then .pay else .snk

/-- The value of SPC that names a space (R57). -/
def Space.code : Space → BitVec 2
  | .src => 0#2
  | .scn => 1#2
  | .pay => 2#2
  | .snk => 3#2

/-- The command a row's word stands for, its operand fields assembled (R57, R58). -/
def Op.build (w : Word) : Op → Instr
  | .nop => .nop
  | .reset => .reset
  | .parse => .parse
  | .xrow => .xrow
  | .xall => .xall
  | .crcinit => .crcinit
  | .crcb => .crcb (imm8Field w)
  | .crcupd => .crcupd (Space.ofCode (spcField w))
  | .crcfin => .crcfin
  | .pngsig => .pngsig
  | .ihdr => .ihdr
  | .plte => .plte
  | .idat => .idat
  | .iend => .iend

/-- Which of R62's two reasons makes a word that no row accepts illegal. -/
def whyIllegal (w : Word) : IllegalWord :=
  if opcodeRows.any (fun r => opcField r.pattern == opcField w) then .reservedBits else .reservedOpcode

/-- The decoder of R61: the first row that accepts the word gives the command; a word of no row is illegal (R62). -/
def decode (w : Word) : Decoded :=
  match opcodeRows.find? (fun r => r.accepts w) with
  | some r => .instr (r.op.build w)
  | none => .illegal (whyIllegal w)

/-- The OPC value of each command (R60). -/
def Instr.opcode : Instr → BitVec 8
  | .nop => 0x00#8
  | .reset => 0x01#8
  | .parse => 0x10#8
  | .xrow => 0x20#8
  | .xall => 0x21#8
  | .crcinit => 0x30#8
  | .crcb _ => 0x31#8
  | .crcupd _ => 0x32#8
  | .crcfin => 0x33#8
  | .pngsig => 0x40#8
  | .ihdr => 0x41#8
  | .plte => 0x42#8
  | .idat => 0x43#8
  | .iend => 0x44#8

/-- The word of a command: format I puts IMM8 in bits [23:16], format S puts SPC in bits [9:8], every other bit
above OPC is 0 (R56). -/
def encode (i : Instr) : Word :=
  match i with
  | .crcb b => 0#8 ++ b ++ 0#8 ++ i.opcode
  | .crcupd s => 0#22 ++ s.code ++ i.opcode
  | .nop | .reset | .parse | .xrow | .xall | .crcinit | .crcfin => 0#24 ++ i.opcode
  | .pngsig | .ihdr | .plte | .idat | .iend => 0#24 ++ i.opcode

/-- The host's question: the command whose word has the low `nbits` bits of `w` and zeros above. Every command is one
32-bit word taken whole at the CMD write (R52, R54), so no byte order enters. -/
def decodeTableWord (nbits w : Nat) : Option Instr :=
  if w % 2 ^ nbits < 4294967296 then
    match decode (BitVec.ofNat 32 (w % 2 ^ nbits)) with
    | .instr i => some i
    | .illegal _ => none
  else none

end Sys2Proof
end

