-- ==== Sys2Proof/Machine/State.lean ====
section
/-! DEFINITION. Everything the machine holds, the events that reach it from outside, and the reasons a step can stop. -/

namespace Sys2Proof.Machine

/-- The contents of one memory space: (address, byte) pairs with addresses strictly rising and no entry equal to
`Config.unlistedByte` (`Memory.wf` in Machine/Ops.lean). -/
abbrev Memory := List Host.Cell

/-- STATUS.PHASE (R22 of 10_state.md). The value 7 is never held, so it has no constructor. -/
inductive Phase where
  | idle
  | parsed
  | sig
  | hdr
  | plt
  | dat
  | done
deriving DecidableEq, Repr

/-- The ten error codes of STATUS.ERRCODE (R117 of 60_exceptions.md). Codes 11-15 are never reported. -/
inductive ErrCode where
  | invalidSignature
  | unsupportedHeader
  | unsupportedCompression
  | truncatedData
  | invalidDimensions
  | invalidPalette
  | ioError
  | sequenceError
  | illegalCommand
  | rangeError
deriving DecidableEq, Repr

/-- The header registers that PARSE fills (R16, R26 of 10_state.md): BMP_SIGNATURE .. BMP_IMPCOUNT, DATA_BYTES, STRIDE
and PAL_ENTRIES. A field narrower than 32 bits is held zero-extended, an i32 field as its bit pattern (R15). -/
structure Header where
  signature : Word
  fileSize : Word
  reserved1 : Word
  reserved2 : Word
  pixOff : Word
  hdrSize : Word
  width : Word
  height : Word
  planes : Word
  bpp : Word
  compression : Word
  imageSize : Word
  xRes : Word
  yRes : Word
  palCount : Word
  impCount : Word
  dataBytes : Word
  stride : Word
  palEntries : Word
deriving DecidableEq, Repr

/-- A command taken at the CMD write and not yet performed (R30(a), R31 of 10_state.md), with the number of host
moves that still pass before it is performed (LATENCY, R142 of 70_reset_and_hazards.md; log 5). -/
structure InFlight where
  word : Word
  wait : Nat
deriving DecidableEq, Repr

/-- The width of a host access (R36 of 20_memory.md). -/
inductive Width where
  | b8
  | b16
  | b32
deriving DecidableEq, Repr

/-- Byte lists for the four memories: what each holds from address 0 on. -/
structure Draw where
  src : List Byte
  scn : List Byte
  pay : List Byte
  snk : List Byte
deriving DecidableEq, Repr

/-- One thing the outside does to the block: an access of the host (R8 of 00_scope.md, R65 of 30_encoding.md) or
power-on (R132 of 70_reset_and_hazards.md). -/
inductive Input where
  /-- A host read of the given width at a host address. -/
  | read (width : Width) (addr : Word)
  /-- A host write; an 8-bit write moves the low eight bits of `data`. -/
  | write (width : Width) (addr : Word) (data : Word)
  /-- The host reads STATUS until BUSY = 0 (R65). -/
  | poll
  /-- The host reads STATUS and, when STATUS.PAL = 1, goes on with the command statement of the given word: the one
  choice of the `encode` pseudo-instruction (R66; R6 of 00_scope.md). -/
  | ifPal (word : Word)
  /-- Power-on: every register takes its reset value and the memories hold unspecified bytes (R132, R47), given here
  as the event's argument (log 16). -/
  | powerOn (contents : Draw)
deriving DecidableEq, Repr

/-- The machine: the block's registers, its four memories, the command in flight, its parameters, and the outside. -/
structure State where
  /-- SRC_SIZE, SCN_SIZE, PAY_SIZE, SNK_SIZE (R10 of 00_scope.md); no step changes them (log 1). -/
  sizes : Sizes
  /-- ARG0 (R19 of 10_state.md). -/
  arg0 : Word
  /-- ARG1 (R19). -/
  arg1 : Word
  /-- SRC_LEN (R20). -/
  srcLen : Word
  /-- SCN_LEN (R26). -/
  scnLen : Word
  /-- SNK_LEN (R105 of 44_png_framer.md). -/
  snkLen : Word
  /-- CRC_ACC (R25). -/
  crcAcc : Word
  /-- CRC_RES (R25). -/
  crcRes : Word
  /-- LAST_CRC (R25). -/
  lastCrc : Word
  /-- ERR_CMD (R120 of 60_exceptions.md). -/
  errCmd : Word
  /-- STATUS.ERR and STATUS.ERRCODE: `none` is ERR = 0 and ERRCODE = 0, `some e` is ERR = 1 and ERRCODE = e
  (R21; R117, R120 of 60_exceptions.md; log 12). -/
  err : Option ErrCode
  /-- STATUS.PHASE (R22). -/
  phase : Phase
  /-- STATUS.PAL (R23). -/
  pal : Bool
  /-- The header registers (R26). -/
  header : Header
  /-- PAL[0..255] (R28). -/
  palette : Vector Word 256
  /-- The SRC memory (R33 of 20_memory.md). -/
  src : Memory
  /-- The SCN memory (R33). -/
  scn : Memory
  /-- The PAY memory (R33). -/
  pay : Memory
  /-- The SNK memory (R33). -/
  snk : Memory
  /-- The command in flight; STATUS.BUSY is 1 exactly when there is one (R31; log 12). -/
  inFlight : Option InFlight
  /-- LATENCY of the commands still to come, the next one first; past the end of the list 0 (R142; log 5). -/
  delays : List Nat
  /-- The model's own: what the outside will still do, the next first (log 4). -/
  inputs : List Input
  /-- The model's own: what the host's latest read returned (R17, R37; log 6). -/
  lastRead : Word
deriving DecidableEq, Repr

/-- Why the machine stops. All are safe: where the model stops, the spec gives the access no result. -/
inductive Fault where
  /-- Raised by a host access to an address with no target (R35, R125). Safe. -/
  | busNoTarget
  /-- Raised by a host access to a window offset at or past the space's size (R35, R125). Safe. -/
  | busPastSize
  /-- Raised by a host access of a width its target does not take (R36, R125). Safe. -/
  | busWidth
  /-- Raised by a misaligned host access (R36, R43, R125). Safe. -/
  | busMisaligned
  /-- Raised by a host write to the SCN or SNK window, which changes nothing (R37 of 20_memory.md, U3 of
  93_implementation_defined.md; log 10). Safe. -/
  | busReadOnly
  /-- Raised by a host access other than a STATUS read while BUSY = 1 (R138 of 70_reset_and_hazards.md). Safe. -/
  | hostWhileBusy
  /-- Raised by a transcode that would reach outside SRC or SCN, where MemRead and MemWrite are not defined (R13 of
  00_scope.md). No state that keeps R27 of 10_state.md raises it (log 11). Safe. -/
  | engineOutsideSpace
  /-- Raised by PLTE when PAL_ENTRIES is above 256, so that it would read a palette entry that does not exist (R28).
  No state that keeps R27 raises it (log 11). Safe. -/
  | engineOutsidePalette
deriving DecidableEq, Repr

/-- Why an instruction has no meaning. -/
inductive Refusal where
  /-- Raised by `exec` for a row of the opcode table with no meaning yet; no arm does. Safe. -/
  | notModelled (mnemonic : String)
deriving DecidableEq, Repr

/-- The reset value of the header registers: all zero (R16, R32 of 10_state.md). -/
def Header.reset : Header :=
  { signature := 0#32, fileSize := 0#32, reserved1 := 0#32, reserved2 := 0#32, pixOff := 0#32, hdrSize := 0#32,
    width := 0#32, height := 0#32, planes := 0#32, bpp := 0#32, compression := 0#32, imageSize := 0#32,
    xRes := 0#32, yRes := 0#32, palCount := 0#32, impCount := 0#32, dataBytes := 0#32, stride := 0#32,
    palEntries := 0#32 }

/-- The state after power-on of a block with the given sizes whose memories hold the given contents: every register
at its reset value (R32 of 10_state.md, R132 of 70_reset_and_hazards.md), the memories whatever they are (R47 of
20_memory.md), no command in flight, and nothing to come from outside. -/
def State.powerOn (sizes : Sizes) (src scn pay snk : Memory) : State :=
  { sizes := sizes, arg0 := 0#32, arg1 := 0#32, srcLen := 0#32, scnLen := 0#32, snkLen := 0#32,
    crcAcc := 0xFFFFFFFF#32, crcRes := 0#32, lastCrc := 0#32, errCmd := 0#32, err := none, phase := .idle,
    pal := false, header := Header.reset, palette := Vector.replicate 256 0#32, src := src, scn := scn, pay := pay,
    snk := snk, inFlight := none, delays := [], inputs := [], lastRead := 0#32 }

/-- The machine right after reset (R32, R132), with the sizes of the test vectors (log 1) and memories in which
nothing is listed (log 2). -/
def State.reset : State := State.powerOn Config.vectorSizes [] [] [] []

end Sys2Proof.Machine
end

