-- ==== Sys2Proof/Machine/Ops.lean ====
section
/-! DEFINITION. The named operations over memories and registers, and the error entry (R13 of 00_scope.md, R120 of
60_exceptions.md). -/

namespace Sys2Proof.Machine

/-! ## One memory -/

/-- The byte at an address; an address the list does not name reads as `Config.unlistedByte` (log 2). -/
def Memory.read : Memory → Nat → Byte
  | [], _ => Config.unlistedByte
  | (k, v) :: m, a => if k = a then v else Memory.read m a

/-- Store one byte, keeping the canonical form: the addresses stay in rising order, and storing what an unlisted
address reads as takes the entry out. -/
def Memory.write : Memory → Nat → Byte → Memory
  | [], a, v => if v = Config.unlistedByte then [] else [(a, v)]
  | (k, w) :: m, a, v =>
    if a < k then (if v = Config.unlistedByte then (k, w) :: m else (a, v) :: (k, w) :: m)
    else if k = a then (if v = Config.unlistedByte then m else (a, v) :: m)
    else (k, w) :: Memory.write m a v

/-- Store a byte sequence at `a`, `a + 1`, ... (`MemWrite` of R13). -/
def Memory.writeBytes (m : Memory) : Nat → List Byte → Memory
  | _, [] => m
  | a, b :: bs => Memory.writeBytes (Memory.write m a b) (a + 1) bs

/-- The `n` bytes at `a`, `a + 1`, ... (`MemRead` of R13). -/
def Memory.readBytes (m : Memory) (a n : Nat) : List Byte := (List.range n).map (fun k => Memory.read m (a + k))

/-- The canonical form from address `lo` on: addresses strictly rising, no entry equal to what an unlisted address
reads as. -/
def Memory.wfFrom : Nat → Memory → Bool
  | _, [] => true
  | lo, (a, v) :: m => decide (lo ≤ a) && (v != Config.unlistedByte) && Memory.wfFrom (a + 1) m

/-- The canonical form of a memory. -/
def Memory.wf (m : Memory) : Bool := Memory.wfFrom 0 m

/-- Every listed address lies in a space of the given size: 0 .. SIZE-1 (R33 of 20_memory.md). -/
def Memory.within (size : Nat) (m : Memory) : Bool := m.all (fun c => decide (c.1 < size))

/-- A memory of the given size that holds the given bytes from address 0 on. -/
def Memory.ofBytes (size : Nat) (bs : List Byte) : Memory := Memory.writeBytes [] 0 (bs.take size)

/-! ## The four spaces of the machine -/

/-- The contents of a space. -/
def State.mem (s : State) : Space → Memory
  | .src => s.src
  | .scn => s.scn
  | .pay => s.pay
  | .snk => s.snk

/-- Replace the contents of a space. -/
def State.setMem (s : State) (sp : Space) (m : Memory) : State :=
  match sp with
  | .src => { s with src := m }
  | .scn => { s with scn := m }
  | .pay => { s with pay := m }
  | .snk => { s with snk := m }

/-- One byte of a space. -/
def State.byte (s : State) (sp : Space) (a : Nat) : Byte := Memory.read (s.mem sp) a

/-- `MemRead(S, addr, n)`, defined only inside the space (R13). -/
def memRead (sp : Space) (a n : Nat) (s : State) : Option (List Byte) :=
  if a + n ≤ s.sizes.of sp then some (Memory.readBytes (s.mem sp) a n) else none

/-- `MemWrite(S, addr, seq)`, defined only inside the space (R13). -/
def memWrite (sp : Space) (a : Nat) (bs : List Byte) (s : State) : Option State :=
  if a + bs.length ≤ s.sizes.of sp then some (s.setMem sp (Memory.writeBytes (s.mem sp) a bs)) else none

/-! ## Register updates -/

/-- CRC_ACC <- v. -/
def State.setCrcAcc (s : State) (v : Word) : State := { s with crcAcc := v }

/-- CRC_RES <- v. -/
def State.setCrcRes (s : State) (v : Word) : State := { s with crcRes := v }

/-- phase <- p (R13). -/
def State.setPhase (s : State) (p : Phase) : State := { s with phase := p }

/-- LAST_CRC <- v (R25 of 10_state.md). -/
def State.setLastCrc (s : State) (v : Word) : State := { s with lastCrc := v }

/-- BUSY <- 0: the command in flight has been performed (R137 of 70_reset_and_hazards.md). -/
def State.retire (s : State) : State := { s with inFlight := none }

/-- The value the host's read returned (log 6). -/
def State.hostSaw (s : State) (v : Word) : State := { s with lastRead := v }

/-- What the outside still has to do. -/
def State.setInputs (s : State) (l : List Input) : State := { s with inputs := l }

/-! ## The error entry and the way out of it -/

/-- Error entry (R120 of 60_exceptions.md): ERR <- 1, ERRCODE <- the code, ERR_CMD <- the command word; nothing else
changes, since the state is the one from before the command. -/
def State.raised (s : State) (e : ErrCode) (cmd : Word) : State := { s with err := some e, errCmd := cmd }

/-- `raise E(cmd)` (R13): the command ends with the error entry, a next state. -/
def raise (e : ErrCode) (cmd : Word) (s : State) : Host.Outcome State Fault Refusal := .next (s.raised e cmd)

/-- Error return, the RESET command's effect (R68 of 40_control.md, R122 of 60_exceptions.md): every register of the
register map and every STATUS field takes its reset value; memories, parameters and the outside stay (log 15). -/
def State.cleared (s : State) : State :=
  { State.powerOn s.sizes s.src s.scn s.pay s.snk with
    delays := s.delays, inputs := s.inputs, lastRead := s.lastRead }

/-- Power-on with the given memory contents (R132 of 70_reset_and_hazards.md, R47 of 20_memory.md): every register at
its reset value, any command in flight lost; the outside and the parameters stay (log 16). -/
def State.repowered (s : State) (c : Draw) : State :=
  { State.powerOn s.sizes (Memory.ofBytes s.sizes.src c.src) (Memory.ofBytes s.sizes.scn c.scn)
      (Memory.ofBytes s.sizes.pay c.pay) (Memory.ofBytes s.sizes.snk c.snk) with
    delays := s.delays, inputs := s.inputs, lastRead := s.lastRead }

end Sys2Proof.Machine
end

