-- ==== Sys2Proof/Machine/Operands.lean ====
section
/-! DEFINITION. Operands: the register operands, the little-endian loads and the big-endian store. -/

namespace Sys2Proof.Machine

/-- A natural number as the 32-bit value of a register; the rules show it is in range before they store it (R12 of
00_scope.md). -/
def toReg (n : Nat) : Word := BitVec.ofNat 32 n

/-- ARG0 as an unsigned address (CRCUPD, IDAT) or row index (XROW): no extension, scaling or sign (R19 of 10_state.md,
R59 of 30_encoding.md). -/
abbrev State.addrOperand (s : State) : Nat := s.arg0.toNat

/-- ARG1 as an unsigned length (CRCUPD, IDAT) (R19, R59). -/
abbrev State.lenOperand (s : State) : Nat := s.arg1.toNat

/-- The range `a .. a+n-1` lies in the space; the sum is exact (R100 of 43_crc32.md, R115 of 44_png_framer.md). -/
def State.inRange (s : State) (sp : Space) (a n : Nat) : Bool := decide (a + n ≤ s.sizes.of sp)

/-- `LE16(S, a)` (R13 of 00_scope.md, R38 of 20_memory.md). -/
def le16 (m : Memory) (a : Nat) : Nat := (Memory.read m a).toNat + 256 * (Memory.read m (a + 1)).toNat

/-- `LE32(S, a)` (R13, R38). -/
def le32 (m : Memory) (a : Nat) : Nat :=
  (Memory.read m a).toNat + 256 * (Memory.read m (a + 1)).toNat + 65536 * (Memory.read m (a + 2)).toNat
    + 16777216 * (Memory.read m (a + 3)).toNat

/-- `s32(v)`: a u32 bit pattern read as i32 (R12). -/
def s32 (v : Nat) : Int := (BitVec.ofNat 32 v).toInt

/-- `BE32(v)`: the bytes v[31:24] v[23:16] v[15:8] v[7:0] (R13, R39 of 20_memory.md). -/
def be32 (v : Word) : List Byte := [v.extractLsb' 24 8, v.extractLsb' 16 8, v.extractLsb' 8 8, v.extractLsb' 0 8]

/-- Byte k (0 to 3) of a host datum: bits [8k+7:8k] (R41 of 20_memory.md, little-endian). -/
def hostByte (v : Word) (k : Nat) : Byte := v.extractLsb' (8 * k) 8

/-- The four bytes a 32-bit host write stores, lowest address first (R41). -/
def hostBytes (v : Word) : List Byte := [hostByte v 0, hostByte v 1, hostByte v 2, hostByte v 3]

end Sys2Proof.Machine
end

