-- ==== Sys2Proof/Machine/Flags.lean ====
section
/-! DEFINITION. STATUS and its fields (R21 to R24 of 10_state.md); the block has no other flags. -/

namespace Sys2Proof.Machine

/-- The value of STATUS.PHASE (R22). -/
def Phase.code : Phase → BitVec 3
  | .idle => 0#3
  | .parsed => 1#3
  | .sig => 2#3
  | .hdr => 3#3
  | .plt => 4#3
  | .dat => 5#3
  | .done => 6#3

/-- The value of STATUS.ERRCODE (R117 of 60_exceptions.md). -/
def ErrCode.code : ErrCode → BitVec 4
  | .invalidSignature => 1#4
  | .unsupportedHeader => 2#4
  | .unsupportedCompression => 3#4
  | .truncatedData => 4#4
  | .invalidDimensions => 5#4
  | .invalidPalette => 6#4
  | .ioError => 7#4
  | .sequenceError => 8#4
  | .illegalCommand => 9#4
  | .rangeError => 10#4

/-- STATUS.BUSY (R31): a command has been taken and its effects are not yet complete. -/
def State.busy (s : State) : Bool := s.inFlight.isSome

/-- STATUS.ERR (R21). -/
def State.errFlag (s : State) : Bool := s.err.isSome

/-- STATUS.ERRCODE: 0 when ERR = 0 (R21, R117). -/
def State.errCode (s : State) : BitVec 4 :=
  match s.err with
  | some e => e.code
  | none => 0#4

/-- The STATUS word (R21): BUSY [0], ERR [1], 0 in [3:2], ERRCODE [7:4], PHASE [10:8], PAL [11], 0 in [31:12]. -/
def State.statusWord (s : State) : Word :=
  0#20 ++ BitVec.ofBool s.pal ++ s.phase.code ++ s.errCode ++ 0#2 ++ BitVec.ofBool s.errFlag ++ BitVec.ofBool s.busy

end Sys2Proof.Machine
end

