-- ==== Sys2Proof/Machine/RegMap.lean ====
section
/-! DEFINITION. The register window (R15 to R18 of 10_state.md): the map of offsets, access rights, reset values, and
what a host read or write of each register does. -/

namespace Sys2Proof.Machine

/-- The registers of the map (R16). -/
inductive Reg where
  | version | cmd | status | arg0 | arg1 | srcLen | scnLen | snkLen | crcAcc | crcRes | lastCrc | errCmd
  | bmpSignature | bmpFileSize | bmpReserved1 | bmpReserved2 | bmpPixOff | bmpHdrSize | bmpWidth | bmpHeight
  | bmpPlanes | bmpBpp | bmpCompression | bmpImageSize | bmpXRes | bmpYRes | bmpPalCount | bmpImpCount
  | dataBytes | stride | palEntries
  | palette (k : Fin 256)
deriving DecidableEq, Repr

/-- The access column of R16: read-only, read-write, or a write that is a command. -/
inductive RegAccess where
  | ro
  | rw
  | wo
deriving DecidableEq, Repr

/-- The registers of R16 before the palette file. -/
def Reg.named : List Reg :=
  [ .version, .cmd, .status, .arg0, .arg1, .srcLen, .scnLen, .snkLen, .crcAcc, .crcRes, .lastCrc, .errCmd,
    .bmpSignature, .bmpFileSize, .bmpReserved1, .bmpReserved2, .bmpPixOff, .bmpHdrSize, .bmpWidth, .bmpHeight,
    .bmpPlanes, .bmpBpp, .bmpCompression, .bmpImageSize, .bmpXRes, .bmpYRes, .bmpPalCount, .bmpImpCount,
    .dataBytes, .stride, .palEntries ]

/-- The offset column of R16. -/
def Reg.offset : Reg → Nat
  | .version => 0x000
  | .cmd => 0x004
  | .status => 0x008
  | .arg0 => 0x00C
  | .arg1 => 0x010
  | .srcLen => 0x014
  | .scnLen => 0x018
  | .snkLen => 0x01C
  | .crcAcc => 0x020
  | .crcRes => 0x024
  | .lastCrc => 0x028
  | .errCmd => 0x02C
  | .bmpSignature => 0x040
  | .bmpFileSize => 0x044
  | .bmpReserved1 => 0x048
  | .bmpReserved2 => 0x04C
  | .bmpPixOff => 0x050
  | .bmpHdrSize => 0x054
  | .bmpWidth => 0x058
  | .bmpHeight => 0x05C
  | .bmpPlanes => 0x060
  | .bmpBpp => 0x064
  | .bmpCompression => 0x068
  | .bmpImageSize => 0x06C
  | .bmpXRes => 0x070
  | .bmpYRes => 0x074
  | .bmpPalCount => 0x078
  | .bmpImpCount => 0x07C
  | .dataBytes => 0x080
  | .stride => 0x084
  | .palEntries => 0x088
  | .palette k => 0x400 + 4 * k.val

/-- The access column of R16. -/
def Reg.access : Reg → RegAccess
  | .cmd => .wo
  | .arg0 | .arg1 | .srcLen => .rw
  | _ => .ro

/-- The register at an aligned offset of the window; `none` for a reserved offset (R16). The offsets 0x030 to 0x03C stand in
no row of R16: DESIGN CHOICE, log 24, they are taken as reserved too (read 0, writes ignored). -/
def regAt (off : Nat) : Option Reg :=
  if 0x400 ≤ off ∧ off < 0x800 then some (.palette (Fin.ofNat 256 ((off - 0x400) / 4)))
  else Reg.named.find? (fun r => r.offset == off)

/-- What a host read of a register returns: its current value; CMD reads 0 (R17), VERSION is the constant (R18). -/
def Reg.read (s : State) : Reg → Word
  | .version => Config.version
  | .cmd => 0#32
  | .status => s.statusWord
  | .arg0 => s.arg0
  | .arg1 => s.arg1
  | .srcLen => s.srcLen
  | .scnLen => s.scnLen
  | .snkLen => s.snkLen
  | .crcAcc => s.crcAcc
  | .crcRes => s.crcRes
  | .lastCrc => s.lastCrc
  | .errCmd => s.errCmd
  | .bmpSignature => s.header.signature
  | .bmpFileSize => s.header.fileSize
  | .bmpReserved1 => s.header.reserved1
  | .bmpReserved2 => s.header.reserved2
  | .bmpPixOff => s.header.pixOff
  | .bmpHdrSize => s.header.hdrSize
  | .bmpWidth => s.header.width
  | .bmpHeight => s.header.height
  | .bmpPlanes => s.header.planes
  | .bmpBpp => s.header.bpp
  | .bmpCompression => s.header.compression
  | .bmpImageSize => s.header.imageSize
  | .bmpXRes => s.header.xRes
  | .bmpYRes => s.header.yRes
  | .bmpPalCount => s.header.palCount
  | .bmpImpCount => s.header.impCount
  | .dataBytes => s.header.dataBytes
  | .stride => s.header.stride
  | .palEntries => s.header.palEntries
  | .palette k => s.palette[k.val]

/-- The reset column of R16. -/
def Reg.resetValue : Reg → Word
  | .version => 0x00000007#32
  | .crcAcc => 0xFFFFFFFF#32
  | _ => 0x00000000#32

/-- A host read at an aligned offset of the window; a reserved offset reads 0 (R17). -/
def regRead (off : Nat) (s : State) : Word :=
  match regAt off with
  | some r => r.read s
  | none => 0#32

/-- In the sticky error state every word but RESET's is dropped (R119, R121 of 60_exceptions.md). -/
def State.drops (s : State) (w : Word) : Bool := s.errFlag && (w != encode .reset)

/-- A host write to CMD (R119): a dropped word changes nothing; any other is taken (BUSY <- 1, R31 of 10_state.md,
R137 of 70_reset_and_hazards.md) and waits the time LATENCY gives it (log 5). -/
def State.writeCmd (s : State) (w : Word) : State :=
  if s.drops w then s
  else { s with inFlight := some { word := w, wait := s.delays.headD 0 }, delays := s.delays.tail }

/-- A host write to a register: CMD issues a command, the RW registers take the value, every other register keeps its
value (R16, R17). -/
def Reg.write (s : State) (v : Word) : Reg → State
  | .cmd => s.writeCmd v
  | .arg0 => { s with arg0 := v }
  | .arg1 => { s with arg1 := v }
  | .srcLen => { s with srcLen := v }
  | _ => s

/-- A host write at an aligned offset of the window; a reserved offset ignores it (R17). -/
def regWrite (off : Nat) (v : Word) (s : State) : State :=
  match regAt off with
  | some r => r.write s v
  | none => s

end Sys2Proof.Machine
end

