-- ==== Sys2Proof/Machine/Bus.lean ====
section
/-! DEFINITION. The host's side: the address map, the access rules, the bus errors, the BUSY hazard, and what each
input from outside does (20_memory.md, 70_reset_and_hazards.md, 60_exceptions.md). -/

namespace Sys2Proof.Machine

/-- What a host address reaches (R35 of 20_memory.md). -/
inductive Target where
  | reg (offset : Nat)
  | mem (sp : Space) (offset : Nat)
deriving DecidableEq, Repr

/-- Where the window of a space starts (R35). -/
def windowBase : Space → Nat
  | .src => 0x10000000
  | .scn => 0x20000000
  | .pay => 0x30000000
  | .snk => 0x40000000

/-- The bytes of a memory window, 2^28 (R35). -/
def windowBytes : Nat := 0x10000000

/-- The address lies in the window of the space. -/
def inWindow (a : Nat) (sp : Space) : Bool := decide (windowBase sp ≤ a) && decide (a < windowBase sp + windowBytes)

/-- The host address map (R35); `none` is "no target". -/
def busTarget (a : Nat) : Option Target :=
  if a < 0x1000 then some (.reg a)
  else if inWindow a .src then some (.mem .src (a - windowBase .src))
  else if inWindow a .scn then some (.mem .scn (a - windowBase .scn))
  else if inWindow a .pay then some (.mem .pay (a - windowBase .pay))
  else if inWindow a .snk then some (.mem .snk (a - windowBase .snk))
  else none

/-- The bytes an access moves. -/
def Width.bytes : Width → Nat
  | .b8 => 1
  | .b16 => 2
  | .b32 => 4

/-- The host bus error of an access to a target, if it is one (R35, R36, R43): registers take aligned 32-bit accesses;
memories take 8-bit accesses and aligned 32-bit accesses whose bytes all exist (log 8, log 9). -/
def targetFault (width : Width) (z : Sizes) : Target → Option Fault
  | .reg off =>
    if width ≠ .b32 then some .busWidth else if off % 4 ≠ 0 then some .busMisaligned else none
  | .mem sp off =>
    if width = .b16 then some .busWidth
    else if width = .b32 ∧ off % 4 ≠ 0 then some .busMisaligned
    else if z.of sp < off + width.bytes then some .busPastSize
    else none

/-- The target of a host access, or the host bus error it is (R125 of 60_exceptions.md). -/
def busAccess (width : Width) (addr : Word) (z : Sizes) : Except Fault Target :=
  match busTarget addr.toNat with
  | none => .error .busNoTarget
  | some t =>
    match targetFault width z t with
    | some f => .error f
    | none => .ok t

/-- The value of four bytes of a space, the byte at the lowest address in bits [7:0] (R41). -/
def hostWord (m : Memory) (a : Nat) : Word :=
  Memory.read m (a + 3) ++ Memory.read m (a + 2) ++ Memory.read m (a + 1) ++ Memory.read m a

/-- What a host read of a target returns (R17 of 10_state.md, R37, R41); an 8-bit read is zero-extended (log 6). -/
def targetRead (width : Width) (s : State) : Target → Word
  | .reg off => regRead off s
  | .mem sp off => if width = .b8 then (s.byte sp off).zeroExtend 32 else hostWord (s.mem sp) off

/-- Only SRC and PAY take host writes (R33, R37). -/
def hostWritable : Space → Bool
  | .src | .pay => true
  | .scn | .snk => false

/-- A target that a host write may reach: a register, whose access right then decides (R17), or a space that takes host
writes (R37, U3 of 93_implementation_defined.md; log 10). -/
def Target.takesWrites : Target → Bool
  | .reg _ => true
  | .mem sp _ => hostWritable sp

/-- The bytes a host write stores (R41). -/
def writtenBytes (width : Width) (data : Word) : List Byte :=
  if width = .b8 then [hostByte data 0] else hostBytes data

/-- What a host write to a target that takes it does (R16, R17, R33). -/
def targetWrite (width : Width) (data : Word) (s : State) : Target → State
  | .reg off => regWrite off data s
  | .mem sp off => s.setMem sp (Memory.writeBytes (s.mem sp) off (writtenBytes width data))

/-- The one access allowed while BUSY = 1: a 32-bit read of STATUS (R138 of 70_reset_and_hazards.md). -/
def isStatusRead (width : Width) (addr : Word) : Bool :=
  decide (width = .b32) && decide (addr.toNat = Reg.offset .status)

/-- A host read (R46 of 20_memory.md: it changes nothing in the block). -/
def hostRead (width : Width) (addr : Word) (s : State) : Host.Outcome State Fault Refusal :=
  if s.busy && !(isStatusRead width addr) then .fault .hostWhileBusy
  else
    match busAccess width addr s.sizes with
    | .error f => .fault f
    | .ok t => .next (s.hostSaw (targetRead width s t))

/-- A host write; to SCN or SNK it is a host bus error and changes nothing (R37; log 10). -/
def hostWrite (width : Width) (addr : Word) (data : Word) (s : State) : Host.Outcome State Fault Refusal :=
  if s.busy then .fault .hostWhileBusy
  else
    match busAccess width addr s.sizes with
    | .error f => .fault f
    | .ok t => if t.takesWrites then .next (targetWrite width data s t) else .fault .busReadOnly

/-- A host address with no target (R35). -/
def noTargetAddr : Word := 0xFFFFFFFF#32

/-- The host address of address `a` of a space (R35). Past the window there is none, and no space is that large (R10):
such an address stands for one with no target, so that its access is a host bus error as every access at or past the
space's size is (R35; log 25). -/
def spaceAddr (sp : Space) (a : Nat) : Word := if a < windowBytes then toReg (windowBase sp + a) else noTargetAddr

/-- The host address of CMD. -/
def cmdAddr : Word := toReg (Reg.offset .cmd)

/-- A command statement: write the word to CMD, then poll (R65 of 30_encoding.md). -/
def issue (w : Word) : List Input := [.write .b32 cmdAddr w, .poll]

/-- One input; `rest` is what comes after it (R65, R66; log 4, log 17). A poll stays in place while BUSY = 1. -/
def hostInput (i : Input) (rest : List Input) (s : State) : Host.Outcome State Fault Refusal :=
  match i with
  | .read width addr => hostRead width addr (s.setInputs rest)
  | .write width addr data => hostWrite width addr data (s.setInputs rest)
  | .poll => .next ((if s.busy then s else s.setInputs rest).hostSaw s.statusWord)
  | .ifPal w => .next ((s.setInputs (if s.pal then issue w ++ rest else rest)).hostSaw s.statusWord)
  | .powerOn c => .next ((s.setInputs rest).repowered c)

/-- The host's move: its next input; with none to come nothing happens, the block stays idle with all state kept
(R131 of 60_exceptions.md, R134 of 70_reset_and_hazards.md). -/
def hostMove (s : State) : Host.Outcome State Fault Refusal :=
  match s.inputs with
  | [] => .next s
  | i :: rest => hostInput i rest s

end Sys2Proof.Machine
end

