-- ==== Sys2Proof/Machine/Control.lean ====
section
/-! DEFINITION. The control commands NOP and RESET (40_control.md). -/

namespace Sys2Proof.Machine

/-- NOP (R67): no operation. -/
def execNop (s : State) : Host.Outcome State Fault Refusal := .next s

/-- RESET (R68): every register back to its reset value, every memory byte as it was. -/
def execReset (s : State) : Host.Outcome State Fault Refusal := .next s.cleared

end Sys2Proof.Machine
end

