-- ==== Sys2Proof/Machine/Crc.lean ====
section
/-! DEFINITION. The CRC-32 generator (43_crc32.md): the function and the commands CRCINIT, CRCB, CRCUPD and CRCFIN. -/

namespace Sys2Proof.Machine

/-! ## The function (R95) -/

/-- The reflected polynomial of IEEE 802.3 (R95). -/
def crcPoly : Word := 0xEDB88320#32

/-- The initial value, and the value of the final XOR (R95). -/
def crcOnes : Word := 0xFFFFFFFF#32

/-- One of the eight bit steps: shift right, and XOR the polynomial when the bit dropped is 1 (R95). -/
def crcBit (c : Word) : Word := if c.getLsbD 0 then (c >>> 1) ^^^ crcPoly else c >>> 1

/-- `n` bit steps. -/
def crcBits : Nat → Word → Word
  | 0, c => c
  | n + 1, c => crcBits n (crcBit c)

/-- `crc_byte(c, b)` (R95). -/
def crcByte (c : Word) (b : Byte) : Word := crcBits 8 (c ^^^ b.zeroExtend 32)

/-- `crc_acc(c, b0 b1 ... bn-1)` (R95). -/
def crcAccum (c : Word) (bs : List Byte) : Word := bs.foldl crcByte c

/-- `crc32(bytes)` (R95). -/
def crc32 (bs : List Byte) : Word := crcAccum crcOnes bs ^^^ crcOnes

/-- The 256-entry table of R96, `T[n] = crc_byte(0, n)`: a constant, not state (R30 of 10_state.md). -/
def crcTable (n : Byte) : Word := crcByte 0#32 n

/-- The table form of `crc_byte` that R96 says is equivalent. -/
def crcByteByTable (c : Word) (b : Byte) : Word :=
  (c >>> 8) ^^^ crcTable ((c ^^^ b.zeroExtend 32).extractLsb' 0 8)

/-! ## The commands -/

/-- CRCINIT (R98): CRC_ACC <- 0xFFFFFFFF. -/
def execCrcinit (s : State) : Host.Outcome State Fault Refusal := .next (s.setCrcAcc crcOnes)

/-- CRCB (R99): fold the immediate byte into CRC_ACC. -/
def execCrcb (imm8 : Byte) (s : State) : Host.Outcome State Fault Refusal :=
  .next (s.setCrcAcc (crcByte s.crcAcc imm8))

/-- CRCUPD (R100): fold ARG1 bytes of the space from address ARG0 on into CRC_ACC; RangeError when the range, summed
without wrap, leaves the space. -/
def execCrcupd (spc : Space) (s : State) : Host.Outcome State Fault Refusal :=
  match memRead spc s.addrOperand s.lenOperand s with
  | none => raise .rangeError (encode (.crcupd spc)) s
  | some bs => .next (s.setCrcAcc (crcAccum s.crcAcc bs))

/-- CRCFIN (R101): CRC_RES <- CRC_ACC XOR 0xFFFFFFFF; CRC_ACC stays. -/
def execCrcfin (s : State) : Host.Outcome State Fault Refusal := .next (s.setCrcRes (s.crcAcc ^^^ crcOnes))

end Sys2Proof.Machine
end

