-- ==== Sys2Proof/Machine/Framer.lean ====
section
/-! DEFINITION. The PNG chunk framer (44_png_framer.md): framing, the sink, the chunk bodies and the commands PNGSIG,
IHDR, PLTE, IDAT and IEND. -/

namespace Sys2Proof.Machine

/-! ## Serialization -/

/-- The PNG signature (R102). -/
def pngSignature : List Byte := [0x89#8, 0x50#8, 0x4E#8, 0x47#8, 0x0D#8, 0x0A#8, 0x1A#8, 0x0A#8]

/-- The chunk type codes (R104). -/
def typeIHDR : List Byte := [0x49#8, 0x48#8, 0x44#8, 0x52#8]

def typePLTE : List Byte := [0x50#8, 0x4C#8, 0x54#8, 0x45#8]

def typeIDAT : List Byte := [0x49#8, 0x44#8, 0x41#8, 0x54#8]

def typeIEND : List Byte := [0x49#8, 0x45#8, 0x4E#8, 0x44#8]

/-- The CRC field of a chunk: over type and data, never the length (R103). -/
def chunkCrc (ty data : List Byte) : Word := crc32 (ty ++ data)

/-- `frame(type, data)` (R103). -/
def frame (ty data : List Byte) : List Byte := be32 (toReg data.length) ++ ty ++ data ++ be32 (chunkCrc ty data)

/-- The framed IEND chunk, always the same twelve bytes (R111, R116). -/
def iendChunk : List Byte :=
  [0x00#8, 0x00#8, 0x00#8, 0x00#8, 0x49#8, 0x45#8, 0x4E#8, 0x44#8, 0xAE#8, 0x42#8, 0x60#8, 0x82#8]

/-- The CRC of the IEND chunk (R116). -/
def iendCrc : Word := 0xAE426082#32

/-- `emit(seq)` (R105): append to the stream in SNK; `none` when the sink refuses the bytes. -/
def emit (bs : List Byte) (s : State) : Option State :=
  if s.sizes.snk < s.snkLen.toNat + bs.length then none
  else some { s with snk := Memory.writeBytes s.snk s.snkLen.toNat bs, snkLen := toReg (s.snkLen.toNat + bs.length) }

/-- Emit a chunk's bytes, record its CRC in LAST_CRC and move to the phase (R113 to R116); IOError with nothing written
when the bytes do not fit (R105). -/
def emitChunk (bs : List Byte) (crc : Word) (next : Phase) (cmd : Word) (s : State) :
    Host.Outcome State Fault Refusal :=
  match emit bs s with
  | some t => .next ((t.setLastCrc crc).setPhase next)
  | none => raise .ioError cmd s

/-! ## Chunk bodies -/

/-- `(bd, ct)` of the IHDR body: (8, 2) at 24 bpp, else (bpp, 3) (R108). -/
def ihdrDepthType (h : Header) : Byte × Byte :=
  if h.bpp = 24#32 then (8#8, 2#8) else (h.bpp.extractLsb' 0 8, 3#8)

/-- The IHDR body, 13 bytes (R108). -/
def ihdrBody (h : Header) : List Byte :=
  be32 h.width ++ be32 h.height ++ [(ihdrDepthType h).1, (ihdrDepthType h).2, 0x00#8, 0x00#8, 0x00#8]

/-- `rgb(k)`: a palette entry as red, green, blue (R92 of 42_transcoder.md). -/
def rgbEntry (v : Word) : List Byte := [v.extractLsb' 16 8, v.extractLsb' 8 8, v.extractLsb' 0 8]

/-- The PLTE body: entries 0 .. PAL_ENTRIES-1 in index order (R109). `none`: PAL_ENTRIES is above 256 (log 11). -/
def plteBody (s : State) : Option (List Byte) :=
  if s.header.palEntries.toNat ≤ 256 then some ((s.palette.toList.take s.header.palEntries.toNat).flatMap rgbEntry)
  else none

/-! ## Commands -/

/-- PLTE's phase condition (R107). -/
def State.plteLegal (s : State) : Bool := decide (s.phase = .hdr) && s.pal

/-- IDAT's phase condition (R107). -/
def State.idatLegal (s : State) : Bool := (decide (s.phase = .hdr) && !s.pal) || decide (s.phase = .plt)

/-- PNGSIG (R112): write the signature; LAST_CRC is not written. -/
def execPngsig (s : State) : Host.Outcome State Fault Refusal :=
  if s.phase ≠ .parsed then raise .sequenceError (encode .pngsig) s
  else
    match emit pngSignature s with
    | some t => .next (t.setPhase .sig)
    | none => raise .ioError (encode .pngsig) s

/-- IHDR (R113). -/
def execIhdr (s : State) : Host.Outcome State Fault Refusal :=
  if s.phase ≠ .sig then raise .sequenceError (encode .ihdr) s
  else if s.header.width = 0#32 ∨ s.header.height = 0#32 then raise .invalidDimensions (encode .ihdr) s
  else emitChunk (frame typeIHDR (ihdrBody s.header)) (chunkCrc typeIHDR (ihdrBody s.header)) .hdr (encode .ihdr) s

/-- PLTE (R114). -/
def execPlte (s : State) : Host.Outcome State Fault Refusal :=
  if s.plteLegal = false then raise .sequenceError (encode .plte) s
  else
    match plteBody s with
    | none => .fault .engineOutsidePalette
    | some body =>
      if body.length % 3 ≠ 0 then raise .invalidPalette (encode .plte) s
      else emitChunk (frame typePLTE body) (chunkCrc typePLTE body) .plt (encode .plte) s

/-- IDAT (R115): frame PAY[a .. a+n-1] with a = ARG0, n = ARG1, the body unchecked (R110). -/
def execIdat (s : State) : Host.Outcome State Fault Refusal :=
  if s.idatLegal = false then raise .sequenceError (encode .idat) s
  else
    match memRead .pay s.addrOperand s.lenOperand s with
    | none => raise .rangeError (encode .idat) s
    | some body => emitChunk (frame typeIDAT body) (chunkCrc typeIDAT body) .dat (encode .idat) s

/-- IEND (R116). -/
def execIend (s : State) : Host.Outcome State Fault Refusal :=
  if s.phase ≠ .dat then raise .sequenceError (encode .iend) s
  else emitChunk iendChunk iendCrc .done (encode .iend) s

end Sys2Proof.Machine
end

