-- ==== Sys2Proof/Machine/Parse.lean ====
section
/-! DEFINITION. The BMP header parser (41_bmp_decoder.md): the field layout, the checks and the command PARSE. -/

namespace Sys2Proof.Machine

/-! ## The fields of the file in SRC (R69) -/

/-- headerSize, u32 at offset 14 (R69). -/
def bmpHdrSize (m : Memory) : Nat := le32 m 14

/-- pixelArrayOffset, u32 at offset 10 (R69). -/
def bmpPixOff (m : Memory) : Nat := le32 m 10

/-- width, i32 at offset 18 (R69). -/
def bmpWidth (m : Memory) : Int := s32 (le32 m 18)

/-- height, i32 at offset 22 (R69). -/
def bmpHeight (m : Memory) : Int := s32 (le32 m 22)

/-- bitsPerPixel, u16 at offset 28 (R69). -/
def bmpBpp (m : Memory) : Nat := le16 m 28

/-- compression, u32 at offset 30 (R69). -/
def bmpCompression (m : Memory) : Nat := le32 m 30

/-- paletteColorCount, u32 at offset 46 (R69). -/
def bmpPalCount (m : Memory) : Nat := le32 m 46

/-- The number of palette entries: paletteColorCount, or 2^bpp when that field is 0, for bpp ≤ 8; none for 24 bpp
(R71). -/
def bmpPalEntries (m : Memory) : Nat :=
  if bmpBpp m ≤ 8 then (if bmpPalCount m ≠ 0 then bmpPalCount m else 2 ^ bmpBpp m) else 0

/-- Where the palette starts: after the info header (R72). -/
def bmpPalStart (m : Memory) : Nat := 14 + bmpHdrSize m

/-- `pend`: where the palette ends (R73). -/
def bmpPalEnd (m : Memory) : Nat := bmpPalStart m + 4 * bmpPalEntries m

/-! ## Row geometry (R70), in exact arithmetic -/

/-- `dataBytes = (w*d + 7) div 8` (R70). -/
def rowDataBytes (w d : Nat) : Nat := (w * d + 7) / 8

/-- `stride = ((w*d + 31) div 32) * 4` (R70). -/
def rowStride (w d : Nat) : Nat := (w * d + 31) / 32 * 4

/-- The padding bytes of a row (R70): always computed, never stored. -/
def rowPadding (w d : Nat) : Nat := rowStride w d - rowDataBytes w d

/-- dataBytes of the file. The width is positive where this is used (R78). -/
def bmpDataBytes (m : Memory) : Nat := rowDataBytes (bmpWidth m).toNat (bmpBpp m)

/-- stride of the file. -/
def bmpStride (m : Memory) : Nat := rowStride (bmpWidth m).toNat (bmpBpp m)

/-- Where the pixel array ends: `pixoff + h*stride` (R81). -/
def bmpPixEnd (m : Memory) : Nat := bmpPixOff m + (bmpHeight m).toNat * bmpStride m

/-! ## The checks (R73, in its order; R74 to R83) -/

/-- bpp is 1, 2, 4, 8 or 24 (R77). -/
def bppAdmitted (d : Nat) : Bool := d == 1 || d == 2 || d == 4 || d == 8 || d == 24

/-- The palette checks, for bpp ≤ 8 only (R80). -/
def paletteError (len : Nat) (m : Memory) : Option ErrCode :=
  if 8 < bmpBpp m then none
  else if 2 ^ bmpBpp m < bmpPalEntries m then some .invalidPalette
  else if len < bmpPalEnd m then some .truncatedData
  else if bmpPixOff m < bmpPalEnd m then some .invalidPalette
  else none

/-- The checks that follow the header-size checks (R76 to R81). -/
def infoError (len : Nat) (m : Memory) : Option ErrCode :=
  if bmpCompression m ≠ 0 then some .unsupportedCompression
  else if bppAdmitted (bmpBpp m) = false then some .unsupportedHeader
  else if bmpHeight m < 0 then some .unsupportedHeader
  else if bmpWidth m ≤ 0 ∨ bmpHeight m = 0 then some .invalidDimensions
  else if bmpPixOff m < 14 + bmpHdrSize m then some .unsupportedHeader
  else
    match paletteError len m with
    | some e => some e
    | none => if len < bmpPixEnd m then some .truncatedData else none

/-- The first check of PARSE that fails on the first `len` bytes of an SRC memory of `size` bytes, after the phase
check (R73). -/
def parseError (size len : Nat) (m : Memory) : Option ErrCode :=
  if size < len then some .rangeError
  else if len < 14 then some .truncatedData
  else if Memory.read m 0 ≠ 0x42#8 ∨ Memory.read m 1 ≠ 0x4D#8 then some .invalidSignature
  else if len < 18 then some .truncatedData
  else if bmpHdrSize m < 40 then some .unsupportedHeader
  else if len < 14 + bmpHdrSize m then some .unsupportedHeader
  else infoError len m

/-! ## The commit (R73) -/

/-- The register value of a palette entry at SRC offset `p`: blue [7:0], green [15:8], red [23:16], the reserved byte
dropped (R72, R28 of 10_state.md). -/
def paletteEntry (m : Memory) (p : Nat) : Word :=
  0#8 ++ Memory.read m (p + 2) ++ Memory.read m (p + 1) ++ Memory.read m p

/-- The palette file after PARSE: entry k from SRC for k < n, 0 above (R28, R73). -/
def parsedPalette (m : Memory) : Vector Word 256 :=
  ⟨((List.range 256).map (fun k =>
      if k < bmpPalEntries m then paletteEntry m (bmpPalStart m + 4 * k) else 0#32)).toArray, by simp⟩

/-- The header registers after PARSE (R69, R73; the fields R82 names are loaded and never checked). -/
def parsedHeader (m : Memory) : Header :=
  { signature := toReg (le16 m 0), fileSize := toReg (le32 m 2), reserved1 := toReg (le16 m 6),
    reserved2 := toReg (le16 m 8), pixOff := toReg (bmpPixOff m), hdrSize := toReg (bmpHdrSize m),
    width := toReg (le32 m 18), height := toReg (le32 m 22), planes := toReg (le16 m 26), bpp := toReg (bmpBpp m),
    compression := 0#32, imageSize := toReg (le32 m 34), xRes := toReg (le32 m 38), yRes := toReg (le32 m 42),
    palCount := toReg (bmpPalCount m), impCount := toReg (le32 m 50), dataBytes := toReg (bmpDataBytes m),
    stride := toReg (bmpStride m), palEntries := toReg (bmpPalEntries m) }

/-- SCN_LEN after PARSE: `h * (1 + db)` (R73). -/
def parsedScnLen (m : Memory) : Word := toReg ((bmpHeight m).toNat * (1 + bmpDataBytes m))

/-- Everything PARSE commits, in one step (R26 of 10_state.md, R73). -/
def State.committed (s : State) : State :=
  { s with header := parsedHeader s.src, palette := parsedPalette s.src, scnLen := parsedScnLen s.src,
           pal := decide (bmpBpp s.src ≤ 8), phase := .parsed }

/-- PARSE (R73): the checks in their order, the first that fails raises; with none failing, the commit. -/
def execParse (s : State) : Host.Outcome State Fault Refusal :=
  if s.phase ≠ .idle then raise .sequenceError (encode .parse) s
  else
    match parseError s.sizes.src s.srcLen.toNat s.src with
    | some e => raise e (encode .parse) s
    | none => .next s.committed

end Sys2Proof.Machine
end

