-- ==== Sys2Proof/Machine/Transcode.lean ====
section
/-! DEFINITION. The pixel-row transcoder (42_transcoder.md): the scanline function and the commands XROW and XALL. -/

namespace Sys2Proof.Machine

/-- `h = s32(BMP_HEIGHT)`; a negative value, which no successful PARSE leaves, counts as no rows (log 21). -/
def State.imgHeight (s : State) : Nat := s.header.height.toInt.toNat

/-- `w = s32(BMP_WIDTH)`; likewise. -/
def State.imgWidth (s : State) : Nat := s.header.width.toInt.toNat

/-- `1 + db`: the bytes of a scanline, filter byte included (R90, R91). -/
def State.lineBytes (s : State) : Nat := 1 + s.header.dataBytes.toNat

/-- `a(i) = pixoff + (h - 1 - i)*stride`: where output row `i` is stored, bottom row first (R85). -/
def State.rowStart (s : State) (i : Nat) : Nat :=
  s.header.pixOff.toNat + (s.imgHeight - 1 - i) * s.header.stride.toNat

/-- Pixel `p` of the 24-bpp row whose blue, green, red bytes start at index 0 of `row`, as red, green, blue (R87). -/
def rgbPixel (row : List Byte) (p : Nat) : List Byte :=
  [row.getD (3 * p + 2) 0#8, row.getD (3 * p + 1) 0#8, row.getD (3 * p) 0#8]

/-- The channel reorder of a whole 24-bpp row of `w` pixels (R87). -/
def reorderRow (w : Nat) (row : List Byte) : List Byte := (List.range w).flatMap (rgbPixel row)

/-- `scanline(i)` (R90): the filter byte 0 (R89), then the row's bytes, reordered at 24 bpp (R87) and unchanged at the
indexed depths (R88); padding is never read (R86). `none`: the row lies outside SRC (log 11). -/
def scanline (s : State) (i : Nat) : Option (List Byte) :=
  if s.header.bpp = 24#32 then
    match memRead .src (s.rowStart i) (3 * s.imgWidth) s with
    | some row => some (0x00#8 :: reorderRow s.imgWidth row)
    | none => none
  else
    match memRead .src (s.rowStart i) s.header.dataBytes.toNat s with
    | some row => some (0x00#8 :: row)
    | none => none

/-- Write scanline `i` to its place in SCN, `i * (1 + db)` on (R91). -/
def writeRow (i : Nat) (s : State) : Option State :=
  match scanline s i with
  | some line => memWrite .scn (i * s.lineBytes) line s
  | none => none

/-- Write the scanlines of the given rows, in order. -/
def writeRows : List Nat → State → Option State
  | [], s => some s
  | i :: rows, s =>
    match writeRow i s with
    | some t => writeRows rows t
    | none => none

/-- A transcode that leaves SRC or SCN has no meaning in the spec (R13 of 00_scope.md) and stops (log 11). -/
def transcoded (r : Option State) : Host.Outcome State Fault Refusal :=
  match r with
  | some t => .next t
  | none => .fault .engineOutsideSpace

/-- XROW (R93): transcode output row ARG0. -/
def execXrow (s : State) : Host.Outcome State Fault Refusal :=
  if s.phase = .idle then raise .sequenceError (encode .xrow) s
  else if s.imgHeight ≤ s.addrOperand then raise .rangeError (encode .xrow) s
  else if s.sizes.scn < s.addrOperand * s.lineBytes + s.lineBytes then raise .ioError (encode .xrow) s
  else transcoded (writeRow s.addrOperand s)

/-- XALL (R94): transcode the whole image. -/
def execXall (s : State) : Host.Outcome State Fault Refusal :=
  if s.phase = .idle then raise .sequenceError (encode .xall) s
  else if s.sizes.scn < s.scnLen.toNat then raise .ioError (encode .xall) s
  else transcoded (writeRows (List.range s.imgHeight) s)

end Sys2Proof.Machine
end

