-- ==== Sys2Proof/Machine/Dispatch.lean ====
section
/-! DEFINITION. One arm per command: the rule that a decoded word executes (R119 of 60_exceptions.md). -/

namespace Sys2Proof.Machine

def exec (i : Instr) (s : State) : Host.Outcome State Fault Refusal :=
  match i with
  | .nop => Sys2Proof.Machine.execNop s
  | .reset => Sys2Proof.Machine.execReset s
  | .parse => Sys2Proof.Machine.execParse s
  | .xrow => Sys2Proof.Machine.execXrow s
  | .xall => Sys2Proof.Machine.execXall s
  | .crcinit => Sys2Proof.Machine.execCrcinit s
  | .crcb imm8 => Sys2Proof.Machine.execCrcb imm8 s
  | .crcupd spc => Sys2Proof.Machine.execCrcupd spc s
  | .crcfin => Sys2Proof.Machine.execCrcfin s
  | .pngsig => Sys2Proof.Machine.execPngsig s
  | .ihdr => Sys2Proof.Machine.execIhdr s
  | .plte => Sys2Proof.Machine.execPlte s
  | .idat => Sys2Proof.Machine.execIdat s
  | .iend => Sys2Proof.Machine.execIend s

end Sys2Proof.Machine
end

