-- ==== Sys2Proof/Machine/Engine.lean ====
section
/-! DEFINITION. The engine's transition, and whose turn it is (R119 of 60_exceptions.md, R137 of
70_reset_and_hazards.md). -/

namespace Sys2Proof.Machine

/-- The engine performs a taken command word: BUSY <- 0 and the whole rule of the command, or IllegalCommand for an
illegal word (R119, R62 of 30_encoding.md, R137). The word was not dropped when it was written (log 14). -/
def engineStep (w : Word) (s : State) : Host.Outcome State Fault Refusal :=
  match decode w with
  | .instr i => exec i s.retire
  | .illegal _ => raise .illegalCommand w s.retire

/-- One step of the machine (R49 of 20_memory.md): with no command in flight the host moves; with one that still waits
the host moves and the wait goes down; with one that waits no longer the engine performs it (R137, R142; log 5). -/
def turn (s : State) : Host.Outcome State Fault Refusal :=
  match s.inFlight with
  | none => hostMove s
  | some f =>
    match f.wait with
    | 0 => engineStep f.word s
    | n + 1 => hostMove { s with inFlight := some { word := f.word, wait := n } }

/-- A command in flight that the engine performs at the next step. -/
def State.withCommand (s : State) (w : Word) : State := { s with inFlight := some { word := w, wait := 0 } }

end Sys2Proof.Machine
end

