-- ==== Sys2Proof/Machine/Step.lean ====
section
/-! DEFINITION. The step of the machine, and how a test places the next command. -/

namespace Sys2Proof.Machine

/-- One step: a host access, a power-on, or the engine's transition (R137 of 70_reset_and_hazards.md). -/
def step (s : State) : Host.Outcome State Fault Refusal := turn s

/-- The command is not fetched: it is the word of a CMD write (R52 of 20_memory.md). This places the low `nbits` bits
of `w` as the command in flight, as the host's CMD write does, to be performed at the very next step (log 3). -/
def State.withFetchWord (s : State) (nbits w : Nat) : State := s.withCommand (BitVec.ofNat 32 (w % 2 ^ nbits))

end Sys2Proof.Machine
end

