-- ==== Sys2Proof/Machine/Asm.lean ====
section
/-! DEFINITION. Host scripts and their written form (R64, R65, R66 of 30_encoding.md): statements, the expansion of the
pseudo-instructions, the inputs a statement stands for, and the reading of one line of text. -/

namespace Sys2Proof.Machine

/-! ## Statements (R65, R66) -/

/-- A statement of a host script: a command statement, a host statement (R65) or a pseudo-instruction (R66). -/
inductive Stmt where
  /-- Write the command's word to CMD, then poll. -/
  | cmd (i : Instr)
  /-- `wr <REG>, <v>`. -/
  | wr (r : Reg) (v : Word)
  /-- `rd <REG>`. -/
  | rd (r : Reg)
  /-- `mw <space>, <addr>, <b0> <b1> ...`: 8-bit writes at addr, addr+1, ... -/
  | mw (sp : Space) (addr : Nat) (bytes : List Byte)
  /-- Read STATUS until BUSY = 0. -/
  | poll
  /-- A command statement only when STATUS.PAL = 1; it has no written form of its own and stands inside `encode`. -/
  | cmdIfPal (i : Instr)
  | crcrange (sp : Space) (a n : Word)
  | crc32 (sp : Space) (a n : Word)
  | crcstr (text : List Byte)
  | xrowi (i : Word)
  | idatr (a n : Word)
  | encode (a n : Word)
deriving DecidableEq, Repr

/-- `crcrange` (R66). -/
def expandCrcrange (sp : Space) (a n : Word) : List Stmt := [.wr .arg0 a, .wr .arg1 n, .cmd (.crcupd sp)]

/-- `idatr` (R66). -/
def expandIdatr (a n : Word) : List Stmt := [.wr .arg0 a, .wr .arg1 n, .cmd .idat]

/-- The expansion table of R66; every other statement stands for itself. -/
def Stmt.expand : Stmt → List Stmt
  | .crcrange sp a n => expandCrcrange sp a n
  | .crc32 sp a n => [.cmd .crcinit] ++ expandCrcrange sp a n ++ [.cmd .crcfin]
  | .crcstr text => text.map (fun c => .cmd (.crcb c))
  | .xrowi i => [.wr .arg0 i, .cmd .xrow]
  | .idatr a n => expandIdatr a n
  | .encode a n => [.cmd .pngsig, .cmd .ihdr, .cmdIfPal .plte] ++ expandIdatr a n ++ [.cmd .iend]
  | .cmd i => [.cmd i]
  | .wr r v => [.wr r v]
  | .rd r => [.rd r]
  | .mw sp addr bytes => [.mw sp addr bytes]
  | .poll => [.poll]
  | .cmdIfPal i => [.cmdIfPal i]

/-- The host address of a register (R35 of 20_memory.md: the window starts at 0). -/
def Reg.addr (r : Reg) : Word := toReg r.offset

/-- 8-bit writes of bytes to a space at successive addresses of that space (R65, R35). -/
def byteWrites (sp : Space) : Nat → List Byte → List Input
  | _, [] => []
  | a, b :: bs => .write .b8 (spaceAddr sp a) (b.zeroExtend 32) :: byteWrites sp (a + 1) bs

/-- What a statement without expansion makes the host do (R65); a pseudo-instruction does nothing here, since
`scriptInputs` expands it first. -/
def Stmt.inputs : Stmt → List Input
  | .cmd i => issue (Sys2Proof.encode i)
  | .wr r v => [.write .b32 r.addr v]
  | .rd r => [.read .b32 r.addr]
  | .mw sp addr bytes => byteWrites sp addr bytes
  | .poll => [.poll]
  | .cmdIfPal i => [.ifPal (Sys2Proof.encode i)]
  | .crcrange _ _ _ | .crc32 _ _ _ | .crcstr _ | .xrowi _ | .idatr _ _ | .encode _ _ => []

/-- The inputs of a script, its statements in order (R65). -/
def scriptInputs (p : List Stmt) : List Input := (p.flatMap Stmt.expand).flatMap Stmt.inputs

/-! ## The written form (R64), on lists of characters -/

/-- A token of a line: a bare word, a character in single quotes, or a text in double quotes. -/
inductive Token where
  | word (w : List Char)
  | quoted (c : Char)
  | text (t : List Char)
deriving DecidableEq, Repr

/-- Characters that only separate tokens (log 18). -/
def separates (c : Char) : Bool := c == ' ' || c == '\t' || c == ',' || c == '\r'

/-- The bare word read so far, its characters in reverse, as a token. -/
def pendingWord (acc : List Char) : List Token := if acc.isEmpty then [] else [.word acc.reverse]

/-- The tokens of a line. The first argument holds the characters of an open text in reverse, the second those of an open
bare word; `;` outside quotes starts a comment. `none`: a text is left open. -/
def lexLine : Option (List Char) → List Char → List Char → Option (List Token)
  | none, acc, [] => some (pendingWord acc)
  | some _, _, [] => none
  | some t, _, c :: cs =>
    if c == '"' then (lexLine none [] cs).map (Token.text t.reverse :: ·) else lexLine (some (c :: t)) [] cs
  | none, acc, '\'' :: q :: '\'' :: rest =>
    (lexLine none [] rest).map (fun l => pendingWord acc ++ Token.quoted q :: l)
  | none, acc, c :: cs =>
    if c == ';' then some (pendingWord acc)
    else if separates c then (lexLine none [] cs).map (pendingWord acc ++ ·)
    else if c == '"' then (lexLine (some []) [] cs).map (pendingWord acc ++ ·)
    else lexLine none (c :: acc) cs

/-- The value of a hexadecimal digit. -/
def hexDigit (c : Char) : Option Nat :=
  if '0' ≤ c ∧ c ≤ '9' then some (c.toNat - 48)
  else if 'a' ≤ c ∧ c ≤ 'f' then some (c.toNat - 87)
  else if 'A' ≤ c ∧ c ≤ 'F' then some (c.toNat - 55)
  else none

/-- The value of a digit string in a base. -/
def digits (base : Nat) : Nat → List Char → Option Nat
  | n, [] => some n
  | n, c :: cs =>
    match hexDigit c with
    | some d => if d < base then digits base (base * n + d) cs else none
    | none => none

/-- A number: decimal, or hexadecimal after 0x (R64). -/
def readNat : List Char → Option Nat
  | '0' :: 'x' :: c :: cs => digits 16 0 (c :: cs)
  | c :: cs => digits 10 0 (c :: cs)
  | [] => none

/-- A number that fits in 32 bits. -/
def readWord (w : List Char) : Option Word :=
  match readNat w with
  | some n => if n < 4294967296 then some (toReg n) else none
  | none => none

/-- A byte of an `mw` statement: two hexadecimal digits (R11 of 00_scope.md, R65). -/
def readHexByte : List Char → Option Byte
  | [a, b] => (digits 16 0 [a, b]).map (BitVec.ofNat 8)
  | _ => none

/-- The operand of `crcb`: 0..255, or a character in single quotes, its ASCII code (R64). -/
def readImm8 : Token → Option Byte
  | .word w => (readNat w).bind (fun n => if n < 256 then some (BitVec.ofNat 8 n) else none)
  | .quoted c => if c.toNat < 128 then some (BitVec.ofNat 8 c.toNat) else none
  | .text _ => none

/-- The bytes of a text of ASCII characters (R66, `crcstr`). -/
def readAscii (t : List Char) : Option (List Byte) :=
  t.mapM (fun c => if c.toNat < 128 then some (BitVec.ofNat 8 c.toNat) else none)

/-- The space names (R64). -/
def readSpace (w : List Char) : Option Space :=
  if w = "src".toList then some .src
  else if w = "scn".toList then some .scn
  else if w = "pay".toList then some .pay
  else if w = "snk".toList then some .snk
  else none

/-- The register names of R16 before the palette file, in `Reg.named`'s order. -/
def regNames : List String :=
  [ "VERSION", "CMD", "STATUS", "ARG0", "ARG1", "SRC_LEN", "SCN_LEN", "SNK_LEN", "CRC_ACC", "CRC_RES", "LAST_CRC",
    "ERR_CMD", "BMP_SIGNATURE", "BMP_FILESIZE", "BMP_RESERVED1", "BMP_RESERVED2", "BMP_PIXOFF", "BMP_HDRSIZE",
    "BMP_WIDTH", "BMP_HEIGHT", "BMP_PLANES", "BMP_BPP", "BMP_COMPRESSION", "BMP_IMAGESIZE", "BMP_XRES", "BMP_YRES",
    "BMP_PALCOUNT", "BMP_IMPCOUNT", "DATA_BYTES", "STRIDE", "PAL_ENTRIES" ]

/-- The index of a palette register's name, PAL[k] with k from 0 to 255. -/
def readPalIndex (w : List Char) : Option (Fin 256) :=
  match w with
  | 'P' :: 'A' :: 'L' :: '[' :: rest =>
    if rest.getLast? = some ']' then
      match readNat rest.dropLast with
      | some k => if h : k < 256 then some ⟨k, h⟩ else none
      | none => none
    else none
  | _ => none

/-- A register by its name in R16. -/
def readReg (w : List Char) : Option Reg :=
  match readPalIndex w with
  | some k => some (.palette k)
  | none => ((regNames.zip Reg.named).find? (fun p => p.1.toList == w)).map (·.2)

/-- The command statements without an operand (R64). -/
def plainMnemonics : List (String × Instr) :=
  [ ("nop", .nop), ("reset", .reset), ("parse", .parse), ("xrow", .xrow), ("xall", .xall), ("crcinit", .crcinit),
    ("crcfin", .crcfin), ("pngsig", .pngsig), ("ihdr", .ihdr), ("plte", .plte), ("idat", .idat), ("iend", .iend) ]

/-- A statement of one word: a plain command or `poll`. -/
def readBare (w : List Char) : Option Stmt :=
  if w = "poll".toList then some .poll
  else (plainMnemonics.find? (fun p => p.1.toList == w)).map (fun p => .cmd p.2)

/-- A pseudo-instruction over a range of a space. -/
def readRange (w sp a n : List Char) : Option Stmt :=
  match readSpace sp, readWord a, readWord n with
  | some sp, some a, some n =>
    if w = "crcrange".toList then some (.crcrange sp a n)
    else if w = "crc32".toList then some (.crc32 sp a n)
    else none
  | _, _, _ => none

/-- A statement of a name and two words: `wr`, `idatr`, `encode`. -/
def readPair (w x y : List Char) : Option Stmt :=
  if w = "wr".toList then (readReg x).bind (fun r => (readWord y).map (Stmt.wr r))
  else if w = "idatr".toList then (readWord x).bind (fun a => (readWord y).map (Stmt.idatr a))
  else if w = "encode".toList then (readWord x).bind (fun a => (readWord y).map (Stmt.encode a))
  else none

/-- A statement of a name and one operand: `crcb`, `crcupd`, `crcstr`, `rd`, `xrowi`. -/
def readSingle (w : List Char) (t : Token) : Option Stmt :=
  if w = "crcb".toList then (readImm8 t).map (fun b => .cmd (.crcb b))
  else
    match t with
    | .word x =>
      if w = "crcupd".toList then (readSpace x).map (fun sp => .cmd (.crcupd sp))
      else if w = "rd".toList then (readReg x).map .rd
      else if w = "xrowi".toList then (readWord x).map .xrowi
      else none
    | .text x => if w = "crcstr".toList then (readAscii x).map .crcstr else none
    | .quoted _ => none

/-- The byte operands of an `mw` statement. -/
def readBytes (l : List Token) : Option (List Byte) :=
  l.mapM (fun t =>
    match t with
    | .word w => readHexByte w
    | _ => none)

/-- An `mw` statement (R65). -/
def readMw (sp addr : List Char) (bytes : List Token) : Option Stmt :=
  match readSpace sp, readNat addr, readBytes bytes with
  | some sp, some a, some bs => some (.mw sp a bs)
  | _, _, _ => none

/-- The statement that a line's tokens spell. -/
def readStmt (l : List Token) : Option Stmt :=
  match l with
  | [.word w] => readBare w
  | [.word w, t] => readSingle w t
  | .word w :: rest =>
    if w = "mw".toList then
      match rest with
      | .word sp :: .word addr :: bytes => readMw sp addr bytes
      | _ => none
    else
      match rest with
      | [.word x, .word y] => readPair w x y
      | [.word sp, .word a, .word n] => readRange w sp a n
      | _ => none
  | _ => none

/-- One line of a script (R64: one statement per line): no statement for an empty or comment line, `none` where the
line is no statement. -/
def readLine (l : List Char) : Option (List Stmt) :=
  match lexLine none [] l with
  | none => none
  | some [] => some []
  | some toks => (readStmt toks).map (fun s => [s])

/-- A script from its lines; `none` where a line is no statement. -/
def readScript (lines : List (List Char)) : Option (List Stmt) := (lines.mapM readLine).map List.flatten

/-- The written form of a space (R64). -/
def spellSpace : Space → List Char
  | .src => "src".toList
  | .scn => "scn".toList
  | .pay => "pay".toList
  | .snk => "snk".toList

/-- A hexadecimal digit of a value below 16. -/
def hexChar (n : Nat) : Char := if n < 10 then Char.ofNat (48 + n) else Char.ofNat (87 + n)

/-- The written form of a command statement (R64), the immediate of `crcb` as 0x and two hexadecimal digits. -/
def spellInstr : Instr → List Char
  | .nop => "nop".toList
  | .reset => "reset".toList
  | .parse => "parse".toList
  | .xrow => "xrow".toList
  | .xall => "xall".toList
  | .crcinit => "crcinit".toList
  | .crcb b => "crcb 0x".toList ++ [hexChar (b.toNat / 16), hexChar (b.toNat % 16)]
  | .crcupd sp => "crcupd ".toList ++ spellSpace sp
  | .crcfin => "crcfin".toList
  | .pngsig => "pngsig".toList
  | .ihdr => "ihdr".toList
  | .plte => "plte".toList
  | .idat => "idat".toList
  | .iend => "iend".toList

end Sys2Proof.Machine
end

