-- ==== Sys2Proof/Safety.lean ====
section
/-! DEFINITION. The terms claims are stated in: what a store did, the invariants of the machine, the PNG stream in SNK,
and the end of a conversion. -/

namespace Sys2Proof.Machine

/-! ## Stores and sequences of commands -/

/-- `m'` is `m` with the bytes `bs` at `a`, `a + 1`, ...: those addresses read `bs`, every other address reads as
before. -/
def Stored (m m' : Memory) (a : Nat) (bs : List Byte) : Prop :=
  (∀ k, (h : k < bs.length) → Memory.read m' (a + k) = bs[k]) ∧
  (∀ b, b < a ∨ a + bs.length ≤ b → Memory.read m' b = Memory.read m b)

/-- The rules of several commands, one after another, stopping at the first fault or refusal. -/
def execAll : List Instr → State → Host.Outcome State Fault Refusal
  | [], s => .next s
  | i :: l, s =>
    match exec i s with
    | .next t => execAll l t
    | .fault f => .fault f
    | .refused r => .refused r

/-- The outcome stops for one of the two reasons that only the engine raises (R13 of 00_scope.md). -/
def engineFault : Host.Outcome State Fault Refusal → Bool
  | .fault .engineOutsideSpace => true
  | .fault .engineOutsidePalette => true
  | _ => false

/-- CRC commands one after another, the host setting ARG0 and ARG1 before each (R97, R100 of 43_crc32.md; `crcrange` of
R66 of 30_encoding.md). -/
def foldEach : List (Word × Word × Instr) → State → Host.Outcome State Fault Refusal
  | [], s => .next s
  | (a, n, i) :: l, s =>
    match exec i { s with arg0 := a, arg1 := n } with
    | .next t => foldEach l t
    | .fault f => .fault f
    | .refused r => .refused r

/-! ## What the rules say, in the form claims compare with -/

/-- The bytes that a CRC command folds (R99, R100 of 43_crc32.md). -/
def foldedBytes (s : State) : Instr → List Byte
  | .crcb b => [b]
  | .crcupd sp => Memory.readBytes (s.mem sp) s.arg0.toNat s.arg1.toNat
  | _ => []

/-- A command that folds bytes into CRC_ACC and may run in this state: CRCB, or CRCUPD on a range inside its space. -/
def foldsBytes (s : State) : Instr → Bool
  | .crcb _ => true
  | .crcupd sp => decide (s.arg0.toNat + s.arg1.toNat ≤ s.sizes.of sp)
  | _ => false

/-- The checks of PARSE in the order of R73 of 41_bmp_decoder.md (R124 of 60_exceptions.md lists the same order), each
with the error it raises. -/
def parseChecks (s : State) : List (Bool × ErrCode) :=
  let len := s.srcLen.toNat
  let hs := le32 s.src 14
  let w := s32 (le32 s.src 18)
  let h := s32 (le32 s.src 22)
  let bpp := le16 s.src 28
  let pixoff := le32 s.src 10
  let cu := le32 s.src 46
  let n := if cu ≠ 0 then cu else 2 ^ bpp
  let stride := (w.toNat * bpp + 31) / 32 * 4
  [ (decide (s.phase ≠ .idle), .sequenceError),
    (decide (s.sizes.src < len), .rangeError),
    (decide (len < 14), .truncatedData),
    (decide (Memory.read s.src 0 ≠ 0x42#8) || decide (Memory.read s.src 1 ≠ 0x4D#8), .invalidSignature),
    (decide (len < 18), .truncatedData),
    (decide (hs < 40), .unsupportedHeader),
    (decide (len < 14 + hs), .unsupportedHeader),
    (decide (le32 s.src 30 ≠ 0), .unsupportedCompression),
    (decide (bpp ∉ [1, 2, 4, 8, 24]), .unsupportedHeader),
    (decide (h < 0), .unsupportedHeader),
    (decide (w ≤ 0) || decide (h = 0), .invalidDimensions),
    (decide (pixoff < 14 + hs), .unsupportedHeader),
    (decide (bpp ≤ 8) && decide (2 ^ bpp < n), .invalidPalette),
    (decide (bpp ≤ 8) && decide (len < 14 + hs + 4 * n), .truncatedData),
    (decide (bpp ≤ 8) && decide (pixoff < 14 + hs + 4 * n), .invalidPalette),
    (decide (len < pixoff + h.toNat * stride), .truncatedData) ]

/-- The error of the first check that fails (R124). -/
def firstFailing : List (Bool × ErrCode) → Option ErrCode
  | [] => none
  | (fails, e) :: l => if fails then some e else firstFailing l

/-- Byte `k` of `scanline(i)`, by its position (R85 to R90 of 42_transcoder.md): the filter byte, then at 24 bpp the
three bytes of each stored pixel in reverse, at the indexed depths the stored bytes. -/
def scanByte (s : State) (i k : Nat) : Byte :=
  let a := s.header.pixOff.toNat + (s.imgHeight - 1 - i) * s.header.stride.toNat
  if k = 0 then 0x00#8
  else if s.header.bpp.toNat = 24 then Memory.read s.src (a + 3 * ((k - 1) / 3) + (2 - (k - 1) % 3))
  else Memory.read s.src (a + (k - 1))

/-- XROW of each row in turn, the host setting ARG0 before each (R135, step 3, of 70_reset_and_hazards.md). -/
def xrowEach : List Nat → State → Host.Outcome State Fault Refusal
  | [], s => .next s
  | i :: l, s =>
    match exec .xrow { s with arg0 := toReg i } with
    | .next t => xrowEach l t
    | .fault f => .fault f
    | .refused r => .refused r

/-- The memory windows of the host address map, as R35 of 20_memory.md numbers them. -/
def spaceWindows : List (Space × Nat) :=
  [(.src, 0x10000000), (.scn, 0x20000000), (.pay, 0x30000000), (.snk, 0x40000000)]

/-- The register table of R16 of 10_state.md before the palette file: each offset with what a host read there returns
(R17, R18). -/
def registerTable (s : State) : List (Nat × Word) :=
  [ (0x000, 0x00000007#32), (0x004, 0x00000000#32), (0x008, s.statusWord), (0x00C, s.arg0), (0x010, s.arg1),
    (0x014, s.srcLen), (0x018, s.scnLen), (0x01C, s.snkLen), (0x020, s.crcAcc), (0x024, s.crcRes), (0x028, s.lastCrc),
    (0x02C, s.errCmd), (0x040, s.header.signature), (0x044, s.header.fileSize), (0x048, s.header.reserved1),
    (0x04C, s.header.reserved2), (0x050, s.header.pixOff), (0x054, s.header.hdrSize), (0x058, s.header.width),
    (0x05C, s.header.height), (0x060, s.header.planes), (0x064, s.header.bpp), (0x068, s.header.compression),
    (0x06C, s.header.imageSize), (0x070, s.header.xRes), (0x074, s.header.yRes), (0x078, s.header.palCount),
    (0x07C, s.header.impCount), (0x080, s.header.dataBytes), (0x084, s.header.stride), (0x088, s.header.palEntries) ]

/-- Every register reads its reset value (the reset column of R16; R32 of 10_state.md): VERSION 7, CRC_ACC 0xFFFFFFFF,
every other register and palette entry 0. -/
def RegistersReset (s : State) : Prop :=
  (∀ p ∈ registerTable s,
    p.2 = if p.1 = 0x000 then 0x00000007#32 else if p.1 = 0x020 then 0xFFFFFFFF#32 else 0x00000000#32) ∧
  ∀ k : Fin 256, s.palette[k.val] = 0x00000000#32

/-- The host accesses that are no bus error, reads or (`write`) writes: an aligned 32-bit access to the register window;
an 8-bit access, or an aligned 32-bit access, to bytes of a space that exist (R35, R36 of 20_memory.md; log 9 for the last
three of four bytes), where a write reaches SRC and PAY only (R37; log 10). -/
def LegalAccess (z : Sizes) (write : Bool) (width : Width) (a : Nat) : Prop :=
  (a < 0x1000 ∧ width = .b32 ∧ a % 4 = 0) ∨
  (∃ sp base, (sp, base) ∈ spaceWindows ∧ base ≤ a ∧ a < base + 0x10000000 ∧
    (write = true → sp = .src ∨ sp = .pay) ∧
    ((width = .b8 ∧ a - base < z.of sp) ∨ (width = .b32 ∧ a % 4 = 0 ∧ a - base + 3 < z.of sp)))

/-- The host bus errors (R125 of 60_exceptions.md; the last is log 10). -/
def busFaults : List Fault := [.busNoTarget, .busPastSize, .busWidth, .busMisaligned, .busReadOnly]

/-- The reserved offsets of the register window (R16 of 10_state.md). -/
def ReservedOffset (off : Nat) : Prop :=
  off % 4 = 0 ∧ ((0x08C ≤ off ∧ off < 0x400) ∨ (0x800 ≤ off ∧ off < 0x1000))

/-- The offsets of the register window that no row of R16 names; the model takes them as reserved (log 24). -/
def UnnamedOffset (off : Nat) : Prop := off % 4 = 0 ∧ 0x030 ≤ off ∧ off < 0x040

/-! ## Invariants -/

/-- Every memory has its canonical form and lists only addresses of its space (R33 of 20_memory.md). -/
def MemoriesOk (s : State) : Prop :=
  ∀ sp : Space, Memory.wf (s.mem sp) = true ∧ Memory.within (s.sizes.of sp) (s.mem sp) = true

/-- What the header registers satisfy when PHASE is not IDLE (R27 of 10_state.md), with STATUS.PAL (R23) and the unused
palette entries (R28). -/
structure GeometryOk (s : State) : Prop where
  width : 1 ≤ s.header.width.toInt
  height : 1 ≤ s.header.height.toInt
  compression : s.header.compression = 0#32
  bpp : s.header.bpp.toNat ∈ [1, 2, 4, 8, 24]
  dataBytes : s.header.dataBytes.toNat = (s.imgWidth * s.header.bpp.toNat + 7) / 8
  stride : s.header.stride.toNat = (s.imgWidth * s.header.bpp.toNat + 31) / 32 * 4
  pixels : s.header.pixOff.toNat + s.imgHeight * s.header.stride.toNat ≤ s.sizes.src
  scnLen : s.scnLen.toNat = s.imgHeight * (1 + s.header.dataBytes.toNat)
  noPalette : s.header.bpp.toNat = 24 → s.header.palEntries.toNat = 0
  palette : s.header.bpp.toNat ≤ 8 →
    1 ≤ s.header.palEntries.toNat ∧ s.header.palEntries.toNat ≤ 2 ^ s.header.bpp.toNat
  palFlag : s.pal = decide (s.header.bpp.toNat ≤ 8)
  unusedEntries : ∀ k : Fin 256, s.header.palEntries.toNat ≤ k.val → s.palette[k.val] = 0#32
  entryTop : ∀ k : Fin 256, (s.palette[k.val]).extractLsb' 24 8 = 0#8

/-- In phase IDLE the header registers, the palette file, SCN_LEN and STATUS.PAL hold their reset values (R26: only a
PARSE that raises no error writes them, and RESET); in every other phase R27 holds. -/
def HeaderOk (s : State) : Prop :=
  s.sizes.wellFormed = true ∧
  (s.phase = .idle →
    s.header = Header.reset ∧ s.palette = Vector.replicate 256 0#32 ∧ s.scnLen = 0#32 ∧ s.pal = false) ∧
  (s.phase ≠ .idle → GeometryOk s)

/-- The PLTE body of the loaded palette (R109 of 44_png_framer.md). -/
def paletteBody (s : State) : List Byte := (s.palette.toList.take s.header.palEntries.toNat).flatMap rgbEntry

/-- Signature and IHDR chunk of the loaded image. -/
def pngHead (s : State) : List Byte := pngSignature ++ frame typeIHDR (ihdrBody s.header)

/-- Signature, IHDR and, exactly when the image is indexed, PLTE (R107). -/
def pngHeadPal (s : State) : List Byte :=
  pngHead s ++ (if s.pal then frame typePLTE (paletteBody s) else [])

/-- The stream that SNK holds in each phase, given the body of the IDAT chunk (R102 to R111): what the encoder's state
machine has written so far. -/
def pngStream (s : State) (body : List Byte) : List Byte :=
  match s.phase with
  | .idle | .parsed => []
  | .sig => pngSignature
  | .hdr => pngHead s
  | .plt => pngHeadPal s
  | .dat => pngHeadPal s ++ frame typeIDAT body
  | .done => pngHeadPal s ++ frame typeIDAT body ++ frame typeIEND []

/-- SNK[0 .. SNK_LEN-1] is the stream of the phase, for some IDAT body (R106, R123 of 60_exceptions.md), it fits in SNK,
and PLT is a phase of indexed images only (R107). -/
def StreamOk (s : State) : Prop :=
  s.snkLen.toNat ≤ s.sizes.snk ∧ (s.phase = .plt → s.pal = true) ∧
  ∃ body, Memory.readBytes s.snk 0 s.snkLen.toNat = pngStream s body

/-- ERR_CMD is 0 when no error is held (R120), and in the sticky error state only RESET can be in flight (R121). -/
def ErrorOk (s : State) : Prop :=
  (s.err = none → s.errCmd = 0#32) ∧
  (∀ f, s.inFlight = some f → s.err ≠ none → f.word = encode .reset)

/-- The invariant of the whole machine. -/
def Inv (s : State) : Prop := MemoriesOk s ∧ HeaderOk s ∧ StreamOk s ∧ ErrorOk s

/-! ## The end of a conversion -/

/-- A conversion has ended: BUSY = 0 and PHASE = DONE or ERR = 1 (R136 of 70_reset_and_hazards.md). -/
def Ended (s : State) : Bool := !s.busy && (decide (s.phase = .done) || s.errFlag)

/-- The host script of a conversion (R135, steps 1 to 5): load the file, parse, transcode, hand back the zlib stream the
host's own compressor made, and encode. -/
def conversionScript (file zlib : List Byte) : List Stmt :=
  [.mw .src 0 file, .wr .srcLen (toReg file.length), .cmd .parse, .cmd .xall, .mw .pay 0 zlib,
   .encode 0#32 (toReg zlib.length)]

end Sys2Proof.Machine
end

