-- ==== Sys2Proof/Certificates/Slice0/Obligations.lean ====
section
/-! DEFINITION. The statements for the provers. Each docstring names the rule of spec/ it says. -/

open Sys2Proof Sys2Proof.Machine

/-! ## Encoding (30_encoding.md) -/

/-- Decoding the word of a command gives the command back, with every value of IMM8 and SPC (R56 to R61). -/
def Obligations.DecodeOfEncodeIsTheCommand : Prop :=
  ∀ i : Instr, i.wellFormed = true → decode (encode i) = .instr i

/-- A word that decodes to a command is that command's word: no bit of it is ignored (R56, R61, R62). -/
def Obligations.EncodeOfDecodedIsTheWord : Prop :=
  ∀ (w : Word) (i : Instr), decode w = .instr i → encode i = w

/-- No two rows of the opcode table match one word (R61). -/
def Obligations.NoTwoRowsShareAWord : Prop :=
  ∀ r ∈ opcodeRows, ∀ r' ∈ opcodeRows, ∀ w : Word, r.accepts w = true → r'.accepts w = true → r = r'

/-- A word is illegal exactly when its OPC is none of the fourteen or a bit its format requires to be zero is 1 (R55,
R56, R60, R62). -/
def Obligations.IllegalWordsAreThoseOfNoFormat : Prop :=
  ∀ w : Word, (∃ why, decode w = .illegal why) ↔
    ¬ ((w.extractLsb' 0 8 ∈ [0x00#8, 0x01#8, 0x10#8, 0x20#8, 0x21#8, 0x30#8, 0x33#8, 0x40#8, 0x41#8, 0x42#8, 0x43#8,
          0x44#8] ∧ w.extractLsb' 8 24 = 0#24) ∨
       (w.extractLsb' 0 8 = 0x31#8 ∧ w.extractLsb' 8 8 = 0#8 ∧ w.extractLsb' 24 8 = 0#8) ∨
       (w.extractLsb' 0 8 = 0x32#8 ∧ w.extractLsb' 10 22 = 0#22))

/-- The words the spec writes out decode to the commands it names, or are illegal (R60; vectors T-D1 to T-D11 of
95_test_vectors.md). -/
def Obligations.SpecWordsDecode : Prop :=
  decode 0x00000000#32 = .instr .nop ∧ decode 0x00000001#32 = .instr .reset ∧
  decode 0x00000010#32 = .instr .parse ∧ decode 0x00000020#32 = .instr .xrow ∧
  decode 0x00000132#32 = .instr (.crcupd .scn) ∧ decode 0x00000332#32 = .instr (.crcupd .snk) ∧
  decode 0x00610031#32 = .instr (.crcb 0x61#8) ∧ decode 0x00000044#32 = .instr .iend ∧
  decode 0x00000002#32 = .illegal .reservedOpcode ∧ decode 0x00000110#32 = .illegal .reservedBits ∧
  decode 0x00000432#32 = .illegal .reservedBits ∧ decode 0x01000031#32 = .illegal .reservedBits

/-! ## The written form (R64 to R66) -/

/-- The written form of every command statement reads back as that command (R64), and the statement makes the host
write the command's word to CMD and then poll (R65). -/
def Obligations.WrittenCommandsReadBack : Prop :=
  ∀ i : Instr, readLine (spellInstr i) = some [.cmd i] ∧
    scriptInputs [.cmd i] = [.write .b32 0x00000004#32 (encode i), .poll]

/-- The expansions of the pseudo-instructions (R66), and what the one conditional statement of `encode` does: the host
reads STATUS and goes on with PLTE's CMD write and a poll exactly when STATUS.PAL = 1. That this is one input of the host's
list is the model's (log 17). -/
def Obligations.PseudoInstructionsExpand : Prop :=
  (∀ (sp : Space) (a n i : Word) (text : List Byte),
    Stmt.expand (.crcrange sp a n) = [.wr .arg0 a, .wr .arg1 n, .cmd (.crcupd sp)] ∧
    Stmt.expand (.crc32 sp a n) =
      [.cmd .crcinit, .wr .arg0 a, .wr .arg1 n, .cmd (.crcupd sp), .cmd .crcfin] ∧
    Stmt.expand (.crcstr text) = text.map (fun c => Stmt.cmd (.crcb c)) ∧
    Stmt.expand (.xrowi i) = [.wr .arg0 i, .cmd .xrow] ∧
    Stmt.expand (.idatr a n) = [.wr .arg0 a, .wr .arg1 n, .cmd .idat] ∧
    Stmt.expand (.encode a n) =
      [.cmd .pngsig, .cmd .ihdr, .cmdIfPal .plte, .wr .arg0 a, .wr .arg1 n, .cmd .idat, .cmd .iend]) ∧
  scriptInputs [.cmdIfPal .plte] = [.ifPal 0x00000042#32] ∧
  ∀ (s : State) (w : Word) (rest : List Input), s.inFlight = none → s.inputs = .ifPal w :: rest →
    step s = .next { s with
      inputs := if s.pal then .write .b32 0x00000004#32 w :: .poll :: rest else rest, lastRead := s.statusWord }

/-! ## The step -/

/-- When the command in flight decodes to a command and waits no longer, the step is that command's rule on the state
with BUSY fallen to 0 (R119 of 60_exceptions.md, R137 of 70_reset_and_hazards.md). -/
def Obligations.StepRunsTheDecodedCommand : Prop :=
  ∀ (s : State) (f : InFlight) (i : Instr), s.inFlight = some f → f.wait = 0 → decode f.word = .instr i →
    step s = exec i { s with inFlight := none }

/-- When the command in flight is an illegal word, the step raises IllegalCommand with ERR_CMD = the word and changes
nothing else but BUSY (R62 of 30_encoding.md, R119, R120). -/
def Obligations.IllegalWordRaisesIllegalCommand : Prop :=
  ∀ (s : State) (f : InFlight) (why : IllegalWord), s.inFlight = some f → f.wait = 0 → decode f.word = .illegal why →
    step s = .next { s with inFlight := none, err := some .illegalCommand, errCmd := f.word }

/-- The host's write of a word to CMD that is not dropped takes the command: BUSY becomes 1 and nothing else changes
(R31 of 10_state.md, R119, R137). The wait it is given is the model's LATENCY (log 5). -/
def Obligations.CommandWriteTakesTheWord : Prop :=
  ∀ (s : State) (w : Word) (rest : List Input), s.inFlight = none → (s.err = none ∨ w = 0x00000001#32) →
    s.inputs = .write .b32 0x00000004#32 w :: rest →
    step s = .next { s with inputs := rest, inFlight := some { word := w, wait := s.delays.headD 0 },
                            delays := s.delays.tail }

/-- While STATUS.ERR = 1 every command word except RESET's is dropped: no state changes and BUSY stays 0 (R121). -/
def Obligations.StickyErrorDropsOtherCommands : Prop :=
  ∀ (s : State) (w : Word) (rest : List Input), s.inFlight = none → s.err ≠ none → w ≠ 0x00000001#32 →
    s.inputs = .write .b32 0x00000004#32 w :: rest → step s = .next { s with inputs := rest }

/-- The only ways out of the sticky error state are a RESET performed and power-on; both clear ERR, ERRCODE and ERR_CMD
and return PHASE to IDLE. Every other step keeps ERRCODE and ERR_CMD (R121, R122). The premise is part of the
invariant `ErrorOk`. -/
def Obligations.StickyErrorHoldsUntilReset : Prop :=
  ∀ s t : State, ErrorOk s → s.err ≠ none → step s = .next t →
    (t.err = s.err ∧ t.errCmd = s.errCmd) ∨
    (t.err = none ∧ t.errCmd = 0#32 ∧ t.phase = .idle ∧
      ((∃ f, s.inFlight = some f ∧ f.word = 0x00000001#32) ∨ (∃ c rest, s.inputs = .powerOn c :: rest)))

/-- A step that raises an error leaves exactly the state from before the command with ERR, ERRCODE and ERR_CMD set and
BUSY fallen (R120): errors are precise for every command word. -/
def Obligations.ErrorsArePrecise : Prop :=
  ∀ (s t : State) (f : InFlight) (e : ErrCode), s.err = none → s.inFlight = some f → f.wait = 0 → step s = .next t →
    t.err = some e → t = { s with inFlight := none, err := some e, errCmd := f.word }

/-- A taken command is performed (R142, fairness): while the host polls, the wait runs down in as many steps as it holds,
STATUS shows BUSY and nothing else changes; the step after that performs the command, or raises IllegalCommand for an
illegal word. R142 leaves the time unspecified: that it is counted in moves of the host is the model's choice (log 5). -/
def Obligations.TakenCommandIsPerformed : Prop :=
  ∀ (n : Nat) (s u : State) (w : Word) (rest : List Input), s.inFlight = some { word := w, wait := n } →
    s.inputs = .poll :: rest →
    u = { s with inFlight := none, lastRead := if n = 0 then s.lastRead else s.statusWord } →
    Host.Core.run Sys2Proof.core n s = .next { u with inFlight := some { word := w, wait := 0 } } ∧
    (∀ i, decode w = .instr i → Host.Core.run Sys2Proof.core (n + 1) s = exec i u) ∧
    (∀ why, decode w = .illegal why →
      Host.Core.run Sys2Proof.core (n + 1) s = .next { u with err := some .illegalCommand, errCmd := w })

/-- With no command in flight and nothing to come from outside, the block keeps all its state (R131 of
60_exceptions.md, R134 of 70_reset_and_hazards.md); a poll then ends at once (R65 of 30_encoding.md). -/
def Obligations.IdleBlockKeepsItsState : Prop :=
  ∀ s : State, s.inFlight = none →
    (s.inputs = [] → step s = .next s) ∧
    (∀ rest, s.inputs = .poll :: rest → step s = .next { s with inputs := rest, lastRead := s.statusWord })

/-! ## STATUS and the register window (10_state.md) -/

/-- The fields of the STATUS word (R21): BUSY, ERR, the reserved bits 0, ERRCODE (0 when ERR = 0, else the number R117 of
60_exceptions.md gives the error), PHASE (the number R22 gives the phase) and PAL; and STATUS is 0 at reset. -/
def Obligations.StatusWordLayout : Prop :=
  State.reset.statusWord = 0#32 ∧
  ∀ s : State,
    s.statusWord.getLsbD 0 = s.inFlight.isSome ∧ s.statusWord.getLsbD 1 = s.err.isSome ∧
    s.statusWord.extractLsb' 2 2 = 0#2 ∧
    (s.err = none → s.statusWord.extractLsb' 4 4 = 0#4) ∧
    (∀ p ∈ [(ErrCode.invalidSignature, 1#4), (.unsupportedHeader, 2#4), (.unsupportedCompression, 3#4),
        (.truncatedData, 4#4), (.invalidDimensions, 5#4), (.invalidPalette, 6#4), (.ioError, 7#4),
        (.sequenceError, 8#4), (.illegalCommand, 9#4), (.rangeError, 10#4)],
      s.err = some p.1 → s.statusWord.extractLsb' 4 4 = p.2) ∧
    (∀ p ∈ [(Phase.idle, 0#3), (.parsed, 1#3), (.sig, 2#3), (.hdr, 3#3), (.plt, 4#3), (.dat, 5#3), (.done, 6#3)],
      s.phase = p.1 → s.statusWord.extractLsb' 8 3 = p.2) ∧
    s.statusWord.getLsbD 11 = s.pal ∧ s.statusWord.extractLsb' 12 20 = 0#20

/-- The register map of R16: every register stands at its own aligned offset of the window, and no other aligned offset
reaches it; each offset of the table reads the register the table names, the palette file from 0x400 on, and the reserved
ranges hold none. That the offsets 0x030 to 0x03C, which R16 does not name, hold none either is the model's choice
(log 24). -/
def Obligations.RegisterMapIsOneToOne : Prop :=
  (∀ r : Reg, regAt r.offset = some r ∧ r.offset % 4 = 0 ∧ r.offset < 0x1000) ∧
  (∀ (off : Nat) (r : Reg), off % 4 = 0 → regAt off = some r → r.offset = off) ∧
  (∀ s : State, ∀ p ∈ registerTable s, regRead p.1 s = p.2) ∧
  (∀ (s : State) (k : Fin 256), regRead (0x400 + 4 * k.val) s = s.palette[k.val]) ∧
  (∀ off : Nat, ReservedOffset off → regAt off = none) ∧
  (∀ off : Nat, UnnamedOffset off → regAt off = none)

/-- R17: a host read of a register returns its current value, of CMD and of a reserved offset 0; a host write to a
read-only register, VERSION among them, or to a reserved offset has no effect. The offsets are those of R16: only CMD
(0x004), ARG0 (0x00C), ARG1 (0x010) and SRC_LEN (0x014) take a write; the offsets that R16 does not name are left out. -/
def Obligations.RegisterWindowReadsAndIgnoredWrites : Prop :=
  ∀ (s : State) (rest : List Input) (v : Word), s.inFlight = none →
    (∀ p ∈ registerTable s, s.inputs = .read .b32 (BitVec.ofNat 32 p.1) :: rest →
      step s = .next { s with inputs := rest, lastRead := p.2 }) ∧
    (∀ k : Fin 256, s.inputs = .read .b32 (BitVec.ofNat 32 (0x400 + 4 * k.val)) :: rest →
      step s = .next { s with inputs := rest, lastRead := s.palette[k.val] }) ∧
    (∀ off, ReservedOffset off → s.inputs = .read .b32 (BitVec.ofNat 32 off) :: rest →
      step s = .next { s with inputs := rest, lastRead := 0#32 }) ∧
    (∀ off, off % 4 = 0 → off < 0x1000 → off ∉ [0x004, 0x00C, 0x010, 0x014] → ¬ UnnamedOffset off →
      s.inputs = .write .b32 (BitVec.ofNat 32 off) v :: rest → step s = .next { s with inputs := rest })

/-- A host write to ARG0, ARG1 or SRC_LEN stores any 32-bit value and changes nothing else (R19, R20). -/
def Obligations.HostWritesTheOperandRegisters : Prop :=
  ∀ (s : State) (rest : List Input) (v : Word), s.inFlight = none →
    (s.inputs = .write .b32 0x0000000C#32 v :: rest → step s = .next { s with inputs := rest, arg0 := v }) ∧
    (s.inputs = .write .b32 0x00000010#32 v :: rest → step s = .next { s with inputs := rest, arg1 := v }) ∧
    (s.inputs = .write .b32 0x00000014#32 v :: rest → step s = .next { s with inputs := rest, srcLen := v })

/-! ## The host bus (20_memory.md) -/

/-- An 8-bit host write to SRC (from 0x10000000 on) or PAY (from 0x30000000 on) stores its byte there; every other byte of
the space and everything else stays (R33, R35, R36). -/
def Obligations.HostStoresBytesInSrcAndPay : Prop :=
  ∀ (s : State) (sp : Space) (base a : Nat) (v : Word) (rest : List Input), s.inFlight = none →
    (sp, base) ∈ [(Space.src, 0x10000000), (.pay, 0x30000000)] →
    s.sizes.wellFormed = true → Memory.wf (s.mem sp) = true → a < s.sizes.of sp →
    s.inputs = .write .b8 (BitVec.ofNat 32 (base + a)) v :: rest →
    ∃ t, step s = .next t ∧ Stored (s.mem sp) (t.mem sp) a [v.extractLsb' 0 8] ∧
      t = State.setMem { s with inputs := rest } sp (t.mem sp)

/-- A 32-bit host access to a memory window (R35) moves the four bytes little-endian (R41): a write stores v[7:0] at `a` up
to v[31:24] at `a + 3`; a read returns the word with those bytes and changes nothing else. -/
def Obligations.HostWordsAreLittleEndian : Prop :=
  ∀ (s : State) (sp : Space) (base a : Nat) (v : Word) (rest : List Input), s.inFlight = none →
    (sp, base) ∈ [(Space.src, 0x10000000), (.scn, 0x20000000), (.pay, 0x30000000), (.snk, 0x40000000)] →
    s.sizes.wellFormed = true → a % 4 = 0 → a + 4 ≤ s.sizes.of sp →
    (sp = .src ∨ sp = .pay → Memory.wf (s.mem sp) = true →
      s.inputs = .write .b32 (BitVec.ofNat 32 (base + a)) v :: rest →
      ∃ t, step s = .next t ∧
        Stored (s.mem sp) (t.mem sp) a
          [v.extractLsb' 0 8, v.extractLsb' 8 8, v.extractLsb' 16 8, v.extractLsb' 24 8] ∧
        t = State.setMem { s with inputs := rest } sp (t.mem sp)) ∧
    (s.inputs = .read .b32 (BitVec.ofNat 32 (base + a)) :: rest →
      ∃ t, step s = .next t ∧ t = { s with inputs := rest, lastRead := t.lastRead } ∧
        ∀ k, k < 4 → t.lastRead.extractLsb' (8 * k) 8 = Memory.read (s.mem sp) (a + k))

/-- A host write to the SCN or SNK window changes nothing (R37): the step stops with the host bus error busReadOnly, as U3
of 93_implementation_defined.md says (log 10). A host read of any window returns the bytes the space holds (R37): the byte
in bits [7:0] of an 8-bit read (log 6), the four bytes of a 32-bit read. -/
def Obligations.ScnAndSnkTakeNoHostWrites : Prop :=
  ∀ (s : State) (sp : Space) (base a : Nat) (v : Word) (rest : List Input), s.inFlight = none →
    (sp, base) ∈ [(Space.src, 0x10000000), (.scn, 0x20000000), (.pay, 0x30000000), (.snk, 0x40000000)] →
    s.sizes.wellFormed = true → a < s.sizes.of sp →
    (sp = .scn ∨ sp = .snk →
      (s.inputs = .write .b8 (BitVec.ofNat 32 (base + a)) v :: rest → step s = .fault .busReadOnly) ∧
      (a % 4 = 0 → a + 4 ≤ s.sizes.of sp → s.inputs = .write .b32 (BitVec.ofNat 32 (base + a)) v :: rest →
        step s = .fault .busReadOnly)) ∧
    (s.inputs = .read .b8 (BitVec.ofNat 32 (base + a)) :: rest →
      ∃ t, step s = .next t ∧ t = { s with inputs := rest, lastRead := t.lastRead } ∧
        t.lastRead.extractLsb' 0 8 = Memory.read (s.mem sp) a) ∧
    (a % 4 = 0 → a + 4 ≤ s.sizes.of sp → s.inputs = .read .b32 (BitVec.ofNat 32 (base + a)) :: rest →
      ∃ t, step s = .next t ∧ t = { s with inputs := rest, lastRead := t.lastRead } ∧
        ∀ k, k < 4 → t.lastRead.extractLsb' (8 * k) 8 = Memory.read (s.mem sp) (a + k))

/-- With BUSY = 0 a host access has an effect exactly when R35, R36 and R37 allow it; every other access is a host bus
error, a fault of the step (R125). That all four bytes of a 32-bit access must exist is log 9, that a write to SCN or SNK is
a bus error is log 10 (U3 of 93_implementation_defined.md). An `mw` byte at or past the end of its space is a host bus error
too, however large its address (R35, R65; log 25). -/
def Obligations.BusErrorsAreExactlyTheIllegalAccesses : Prop :=
  ∀ (s : State) (width : Width) (addr v : Word) (rest : List Input), s.inFlight = none →
    (s.inputs = .read width addr :: rest →
      (LegalAccess s.sizes false width addr.toNat → ∃ t, step s = .next t) ∧
      (¬ LegalAccess s.sizes false width addr.toNat → ∃ f ∈ busFaults, step s = .fault f)) ∧
    (s.inputs = .write width addr v :: rest →
      (LegalAccess s.sizes true width addr.toNat → ∃ t, step s = .next t) ∧
      (¬ LegalAccess s.sizes true width addr.toNat → ∃ f ∈ busFaults, step s = .fault f)) ∧
    (∀ (sp : Space) (a : Nat) (b : Byte), s.sizes.of sp ≤ a → s.inputs = scriptInputs [.mw sp a [b]] ++ rest →
      ∃ f ∈ busFaults, step s = .fault f)

/-- While BUSY = 1 and the command still waits, every host access but a 32-bit STATUS read is a fault of the host's
step, and the STATUS read returns STATUS, BUSY among its bits (R138). That the fault is hostWhileBusy where the access is a
host bus error as well is log 8; that the wait goes down by one at each move of the host is log 5. -/
def Obligations.BusyHazardFaultsTheHost : Prop :=
  ∀ (s : State) (w : Word) (n : Nat) (width : Width) (addr v : Word) (rest : List Input),
    s.inFlight = some { word := w, wait := n + 1 } →
    (s.inputs = .read width addr :: rest → ¬ (width = .b32 ∧ addr = 0x00000008#32) →
      step s = .fault .hostWhileBusy) ∧
    (s.inputs = .write width addr v :: rest → step s = .fault .hostWhileBusy) ∧
    (s.inputs = .read .b32 0x00000008#32 :: rest →
      step s = .next { s with inputs := rest, lastRead := s.statusWord,
                              inFlight := some { word := w, wait := n } } ∧
      s.statusWord.getLsbD 0 = true)

/-- A host read that the map admits changes nothing in the block: only the value the host saw and its list of accesses
(R46). -/
def Obligations.HostReadsHaveNoSideEffect : Prop :=
  ∀ (s t : State) (width : Width) (addr : Word) (rest : List Input), s.inFlight = none →
    s.inputs = .read width addr :: rest → step s = .next t →
    t = { s with inputs := rest, lastRead := t.lastRead }

/-! ## Reset (R32 of 10_state.md, R68 of 40_control.md, R132, R133 of 70_reset_and_hazards.md) -/

/-- In the reset state every register holds its reset value (R32). Power-on gives every register its reset value,
whatever the memories then hold (R132), and leaves in the memories the bytes the event brings (R47). That it may come while
BUSY = 1, and that the command in flight is then lost, is log 16; bytes past the end of a list read as the model's unlisted
byte (log 2). -/
def Obligations.PowerOnResetsEveryRegister : Prop :=
  RegistersReset State.reset ∧ (∀ r : Reg, r.read State.reset = r.resetValue) ∧
  ∀ (s : State) (c : Draw) (rest : List Input),
    (s.inFlight = none ∨ ∃ w n, s.inFlight = some { word := w, wait := n + 1 }) → s.inputs = .powerOn c :: rest →
    ∃ t, step s = .next t ∧ RegistersReset t ∧ (∀ r : Reg, r.read t = r.resetValue) ∧ t.inFlight = none ∧
      t.sizes = s.sizes ∧ t.inputs = rest ∧
      (∀ a, a < s.sizes.src → Memory.read t.src a = c.src.getD a Config.unlistedByte) ∧
      (∀ a, a < s.sizes.scn → Memory.read t.scn a = c.scn.getD a Config.unlistedByte) ∧
      (∀ a, a < s.sizes.pay → Memory.read t.pay a = c.pay.getD a Config.unlistedByte) ∧
      (∀ a, a < s.sizes.snk → Memory.read t.snk a = c.snk.getD a Config.unlistedByte)

/-- The RESET command has the same effect on registers as power-on reset and leaves every memory as it was (R133,
R68). That the parameters and what is still to come from outside stay is log 15. -/
def Obligations.ResetCommandResult : Prop :=
  ∀ s : State, ∃ t, exec .reset s = .next t ∧ RegistersReset t ∧ (∀ r : Reg, r.read t = r.resetValue) ∧
    t.inFlight = none ∧ (∀ sp : Space, t.mem sp = s.mem sp) ∧ t.sizes = s.sizes ∧ t.inputs = s.inputs ∧
    t.delays = s.delays ∧ t.lastRead = s.lastRead

/-- NOP, the word 0x00000000, leaves every register and memory byte unchanged, in every phase (R67). -/
def Obligations.NopResult : Prop := encode .nop = 0x00000000#32 ∧ ∀ s : State, exec .nop s = .next s

/-! ## The CRC-32 generator (43_crc32.md) -/

/-- CRCINIT, the word 0x00000030, sets CRC_ACC to 0xFFFFFFFF and nothing else (R98). -/
def Obligations.CrcinitResult : Prop :=
  encode .crcinit = 0x00000030#32 ∧ ∀ s : State, exec .crcinit s = .next { s with crcAcc := 0xFFFFFFFF#32 }

/-- CRCB, the word 0x00ii0031, folds its byte ii into CRC_ACC and changes nothing else (R99). -/
def Obligations.CrcbResult : Prop :=
  ∀ (s : State) (b : Byte), encode (.crcb b) = 0x00#8 ++ b ++ 0x0031#16 ∧
    exec (.crcb b) s = .next { s with crcAcc := crcByte s.crcAcc b }

/-- CRCUPD, the words 0x00000032, 0x00000132, 0x00000232 and 0x00000332 for SRC, SCN, PAY and SNK, folds ARG1 bytes of
the space from ARG0 on, in order, and changes nothing else; a range whose exact sum leaves the space raises RangeError
with CRC_ACC as it was (R100). -/
def Obligations.CrcupdResult : Prop :=
  [Space.src, .scn, .pay, .snk].map (fun sp => encode (.crcupd sp)) =
    [0x00000032#32, 0x00000132#32, 0x00000232#32, 0x00000332#32] ∧
  ∀ (s : State) (sp : Space),
    (s.arg0.toNat + s.arg1.toNat ≤ s.sizes.of sp →
      exec (.crcupd sp) s =
        .next { s with
          crcAcc := (List.range s.arg1.toNat).foldl
            (fun c k => crcByte c (Memory.read (s.mem sp) (s.arg0.toNat + k))) s.crcAcc }) ∧
    (s.sizes.of sp < s.arg0.toNat + s.arg1.toNat →
      exec (.crcupd sp) s = .next { s with err := some .rangeError, errCmd := encode (.crcupd sp) })

/-- CRCFIN, the word 0x00000033, stores CRC_ACC XOR 0xFFFFFFFF in CRC_RES and keeps CRC_ACC and everything else
(R101). -/
def Obligations.CrcfinResult : Prop :=
  encode .crcfin = 0x00000033#32 ∧
  ∀ s : State, exec .crcfin s = .next { s with crcRes := s.crcAcc ^^^ 0xFFFFFFFF#32 }

/-- The table form of crc_byte equals the bit-serial one, with the table values the spec lists (R96). -/
def Obligations.CrcTableEqualsBitSerial : Prop :=
  (∀ (c : Word) (b : Byte), crcByte c b = (c >>> 8) ^^^ crcByte 0#32 ((c ^^^ b.zeroExtend 32).extractLsb' 0 8)) ∧
  crcByte 0#32 1#8 = 0x77073096#32 ∧ crcByte 0#32 128#8 = 0xEDB88320#32 ∧ crcByte 0#32 255#8 = 0x2D02EF8D#32

/-- A CRC computed over several CRCB and CRCUPD commands between CRCINIT and CRCFIN equals crc32 of the concatenated
bytes (R97): with ARG0 and ARG1 as they are, and with the host setting both before each command, so that the ranges
differ. -/
def Obligations.CrcOverPiecesIsCrcOfTheWhole : Prop :=
  (∀ (s : State) (l : List Instr), (∀ i ∈ l, foldsBytes s i = true) →
    execAll (.crcinit :: l ++ [.crcfin]) s =
      .next { s with crcAcc := crcAccum 0xFFFFFFFF#32 (l.flatMap (foldedBytes s)),
                     crcRes := crc32 (l.flatMap (foldedBytes s)) }) ∧
  ∀ (s : State) (l : List (Word × Word × Instr)) (bytes : List Byte),
    (∀ p ∈ l, foldsBytes { s with arg0 := p.1, arg1 := p.2.1 } p.2.2 = true) →
    bytes = l.flatMap (fun p => foldedBytes { s with arg0 := p.1, arg1 := p.2.1 } p.2.2) →
    ∃ t u v, exec .crcinit s = .next t ∧ foldEach l t = .next u ∧ exec .crcfin u = .next v ∧
      v = { s with arg0 := v.arg0, arg1 := v.arg1, crcAcc := crcAccum 0xFFFFFFFF#32 bytes, crcRes := crc32 bytes }

/-- The CRC values the spec lists: of nothing, of "123456789", of "IEND" and of the PNG signature (R97; vectors T-C1,
T-C5, T-C6, T-C10 of 95_test_vectors.md). -/
def Obligations.CrcKnownValues : Prop :=
  crc32 [] = 0#32 ∧
  crc32 [0x31#8, 0x32#8, 0x33#8, 0x34#8, 0x35#8, 0x36#8, 0x37#8, 0x38#8, 0x39#8] = 0xCBF43926#32 ∧
  crc32 [0x49#8, 0x45#8, 0x4E#8, 0x44#8] = 0xAE426082#32 ∧
  crc32 [0x89#8, 0x50#8, 0x4E#8, 0x47#8, 0x0D#8, 0x0A#8, 0x1A#8, 0x0A#8] = 0x7A0709A4#32

/-! ## PARSE (41_bmp_decoder.md) -/

/-- PARSE raises the error of the first check that fails, in the order of R73, and changes nothing else (R73, R124 of
60_exceptions.md). -/
def Obligations.ParseRaisesTheFirstFailingCheck : Prop :=
  ∀ (s : State) (e : ErrCode), firstFailing (parseChecks s) = some e →
    exec .parse s = .next { s with err := some e, errCmd := 0x00000010#32 }

/-- When no check fails, PARSE loads every header register, the palette file, SCN_LEN and STATUS.PAL, moves to PARSED
and changes nothing else (R73; R69, R70, R71, R72). -/
def Obligations.ParseLoadsTheHeader : Prop :=
  ∀ s : State, s.sizes.wellFormed = true → firstFailing (parseChecks s) = none →
    ∃ t, exec .parse s = .next t ∧
      t = { s with header := t.header, palette := t.palette, scnLen := t.scnLen, pal := t.pal, phase := .parsed } ∧
      t.header.signature = 0x4D42#32 ∧ t.header.fileSize.toNat = le32 s.src 2 ∧
      t.header.reserved1.toNat = le16 s.src 6 ∧ t.header.reserved2.toNat = le16 s.src 8 ∧
      t.header.pixOff.toNat = le32 s.src 10 ∧ t.header.hdrSize.toNat = le32 s.src 14 ∧
      t.header.width.toNat = le32 s.src 18 ∧ t.header.height.toNat = le32 s.src 22 ∧
      t.header.planes.toNat = le16 s.src 26 ∧ t.header.bpp.toNat = le16 s.src 28 ∧ t.header.compression = 0#32 ∧
      t.header.imageSize.toNat = le32 s.src 34 ∧ t.header.xRes.toNat = le32 s.src 38 ∧
      t.header.yRes.toNat = le32 s.src 42 ∧ t.header.palCount.toNat = le32 s.src 46 ∧
      t.header.impCount.toNat = le32 s.src 50 ∧
      t.header.palEntries.toNat =
        (if le16 s.src 28 = 24 then 0 else if le32 s.src 46 ≠ 0 then le32 s.src 46 else 2 ^ le16 s.src 28) ∧
      t.header.dataBytes.toNat = (le32 s.src 18 * le16 s.src 28 + 7) / 8 ∧
      t.header.stride.toNat = (le32 s.src 18 * le16 s.src 28 + 31) / 32 * 4 ∧
      t.scnLen.toNat = le32 s.src 22 * (1 + (le32 s.src 18 * le16 s.src 28 + 7) / 8) ∧
      t.pal = decide (le16 s.src 28 ≤ 8) ∧
      (∀ k : Fin 256, t.palette[k.val] =
        if k.val < t.header.palEntries.toNat then
          0#8 ++ Memory.read s.src (14 + le32 s.src 14 + 4 * k.val + 2)
            ++ Memory.read s.src (14 + le32 s.src 14 + 4 * k.val + 1)
            ++ Memory.read s.src (14 + le32 s.src 14 + 4 * k.val)
        else 0#32)

/-- The ranges after a successful PARSE (R84): no value committed wraps. -/
def Obligations.ParseRanges : Prop :=
  ∀ s t : State, s.sizes.wellFormed = true → firstFailing (parseChecks s) = none → exec .parse s = .next t →
    t.header.stride.toNat ≤ s.srcLen.toNat ∧ s.srcLen.toNat ≤ 2 ^ 28 ∧
    t.header.dataBytes.toNat ≤ t.header.stride.toNat ∧ t.header.height.toNat ≤ s.srcLen.toNat ∧
    t.scnLen.toNat = t.header.height.toNat * (1 + t.header.dataBytes.toNat) ∧
    t.scnLen.toNat ≤ 2 * s.srcLen.toNat ∧ t.scnLen.toNat ≤ 2 ^ 29

/-- PARSE reads only bytes of SRC below SRC_LEN (R83, R84): two states that differ only in other bytes of SRC take the
same error, or load the same registers. -/
def Obligations.ParseDependsOnlyOnTheFile : Prop :=
  ∀ (s : State) (m : Memory), (∀ a, a < s.srcLen.toNat → Memory.read m a = Memory.read s.src a) →
    ∃ t, exec .parse s = .next t ∧ exec .parse { s with src := m } = .next { t with src := m }

/-- Row geometry (R70): dataBytes = (w*d + 7) div 8, stride = ((w*d + 31) div 32) * 4, padding = stride - dataBytes; it is
at most 3 bytes and 0 exactly when dataBytes is a multiple of 4; for 8 and 24 bits per pixel that is exactly when w*d is a
multiple of 32, and w = 7, d = 4 shows that for fewer bits it is not. -/
def Obligations.RowGeometry : Prop :=
  (∀ w d : Nat, rowDataBytes w d = (w * d + 7) / 8 ∧ rowStride w d = (w * d + 31) / 32 * 4 ∧
    rowDataBytes w d + rowPadding w d = rowStride w d ∧ rowPadding w d ≤ 3 ∧
    (rowPadding w d = 0 ↔ rowDataBytes w d % 4 = 0) ∧
    (d = 8 ∨ d = 24 → (rowPadding w d = 0 ↔ w * d % 32 = 0))) ∧
  (7 * 4 % 32 = 28 ∧ rowDataBytes 7 4 = 4 ∧ rowStride 7 4 = 4 ∧ rowPadding 7 4 = 0)

/-! ## The transcoder (42_transcoder.md) -/

/-- XROW writes scanline ARG0 to its place in SCN and changes nothing else, in every phase but IDLE, when the row exists
and fits (R93; R85 to R91). -/
def Obligations.XrowResult : Prop :=
  ∀ s : State, s.phase ≠ .idle → GeometryOk s → Memory.wf s.scn = true → s.arg0.toNat < s.imgHeight →
    s.arg0.toNat * s.lineBytes + s.lineBytes ≤ s.sizes.scn →
    ∃ t, exec .xrow s = .next t ∧
      Stored s.scn t.scn (s.arg0.toNat * s.lineBytes) ((List.range s.lineBytes).map (scanByte s s.arg0.toNat)) ∧
      t = { s with scn := t.scn }

/-- XROW raises SequenceError in IDLE, else RangeError for a row at or above the height, else IOError when the row does
not fit in SCN; nothing else changes (R93, R124). -/
def Obligations.XrowErrors : Prop :=
  ∀ s : State,
    (s.phase = .idle → exec .xrow s = .next { s with err := some .sequenceError, errCmd := 0x00000020#32 }) ∧
    (s.phase ≠ .idle → s.imgHeight ≤ s.arg0.toNat →
      exec .xrow s = .next { s with err := some .rangeError, errCmd := 0x00000020#32 }) ∧
    (s.phase ≠ .idle → s.arg0.toNat < s.imgHeight → s.sizes.scn < s.arg0.toNat * s.lineBytes + s.lineBytes →
      exec .xrow s = .next { s with err := some .ioError, errCmd := 0x00000020#32 })

/-- XALL writes every scanline at its place, i * (1 + db), so that SCN[0 .. SCN_LEN-1] is the whole stream; bytes at and
above SCN_LEN and everything else stay (R94; R85 to R91). -/
def Obligations.XallResult : Prop :=
  ∀ s : State, s.phase ≠ .idle → GeometryOk s → Memory.wf s.scn = true → s.scnLen.toNat ≤ s.sizes.scn →
    ∃ t, exec .xall s = .next t ∧ t = { s with scn := t.scn } ∧
      (∀ i k, i < s.imgHeight → k < s.lineBytes → Memory.read t.scn (i * s.lineBytes + k) = scanByte s i k) ∧
      (∀ a, s.scnLen.toNat ≤ a → Memory.read t.scn a = Memory.read s.scn a)

/-- XALL raises SequenceError in IDLE, else IOError when the whole stream does not fit in SCN, with no byte written
(R94, R124). -/
def Obligations.XallErrors : Prop :=
  ∀ s : State,
    (s.phase = .idle → exec .xall s = .next { s with err := some .sequenceError, errCmd := 0x00000021#32 }) ∧
    (s.phase ≠ .idle → s.sizes.scn < s.scnLen.toNat →
      exec .xall s = .next { s with err := some .ioError, errCmd := 0x00000021#32 })

/-- XALL does what XROW does for every row 0 .. height-1 in turn (R135, step 3; R91). -/
def Obligations.XallIsXrowOfEveryRow : Prop :=
  ∀ s : State, s.phase ≠ .idle → GeometryOk s → s.sizes.wellFormed = true → s.scnLen.toNat ≤ s.sizes.scn →
    ∃ t u, exec .xall s = .next t ∧ xrowEach (List.range s.imgHeight) s = .next u ∧ u = { t with arg0 := u.arg0 }

/-! ## The chunk framer (44_png_framer.md) -/

/-- The layout of a framed chunk (R103): 12 more bytes than its data; the big-endian length of the data, the type, the
data, and the big-endian CRC of type and data. -/
def Obligations.ChunkLayout : Prop :=
  ∀ ty data : List Byte, ty.length = 4 → data.length < 2 ^ 32 →
    (frame ty data).length = 12 + data.length ∧
    (frame ty data).take 4 =
      [BitVec.ofNat 8 (data.length / 2 ^ 24), BitVec.ofNat 8 (data.length / 2 ^ 16),
       BitVec.ofNat 8 (data.length / 2 ^ 8), BitVec.ofNat 8 data.length] ∧
    ((frame ty data).drop 4).take (4 + data.length) = ty ++ data ∧
    (frame ty data).drop (8 + data.length) =
      [(crc32 (ty ++ data)).extractLsb' 24 8, (crc32 (ty ++ data)).extractLsb' 16 8,
       (crc32 (ty ++ data)).extractLsb' 8 8, (crc32 (ty ++ data)).extractLsb' 0 8]

/-- PNGSIG in PARSED appends the eight signature bytes to the stream and moves to SIG; LAST_CRC and everything else
stay (R112, R102, R105). -/
def Obligations.PngsigResult : Prop :=
  ∀ s : State, s.phase = .parsed → Memory.wf s.snk = true → s.sizes.wellFormed = true →
    s.snkLen.toNat + 8 ≤ s.sizes.snk →
    ∃ t, exec .pngsig s = .next t ∧
      Stored s.snk t.snk s.snkLen.toNat [0x89#8, 0x50#8, 0x4E#8, 0x47#8, 0x0D#8, 0x0A#8, 0x1A#8, 0x0A#8] ∧
      t.snkLen.toNat = s.snkLen.toNat + 8 ∧ t = { s with snk := t.snk, snkLen := t.snkLen, phase := .sig }

/-- IHDR in SIG appends the 25 bytes of the IHDR chunk: width and height big-endian, bit depth and colour type (8, 2) at
24 bpp and (bpp, 3) else, three zeros; LAST_CRC is its CRC and PHASE is HDR; everything else stays (R113, R108). -/
def Obligations.IhdrResult : Prop :=
  ∀ s : State, s.phase = .sig → Memory.wf s.snk = true → s.sizes.wellFormed = true → s.header.width ≠ 0#32 →
    s.header.height ≠ 0#32 → s.snkLen.toNat + 25 ≤ s.sizes.snk →
    ∃ t body, exec .ihdr s = .next t ∧
      body = be32 s.header.width ++ be32 s.header.height ++
        [if s.header.bpp.toNat = 24 then 8#8 else BitVec.ofNat 8 s.header.bpp.toNat,
         if s.header.bpp.toNat = 24 then 2#8 else 3#8, 0#8, 0#8, 0#8] ∧
      Stored s.snk t.snk s.snkLen.toNat (frame [0x49#8, 0x48#8, 0x44#8, 0x52#8] body) ∧
      t.snkLen.toNat = s.snkLen.toNat + 25 ∧ t.lastCrc = crc32 ([0x49#8, 0x48#8, 0x44#8, 0x52#8] ++ body) ∧
      t = { s with snk := t.snk, snkLen := t.snkLen, lastCrc := t.lastCrc, phase := .hdr }

/-- PLTE in HDR of an indexed image appends the PLTE chunk: red, green, blue of entries 0 .. PAL_ENTRIES-1 in index
order; LAST_CRC is its CRC and PHASE is PLT; everything else stays (R114, R109, R92). -/
def Obligations.PlteResult : Prop :=
  ∀ s : State, s.phase = .hdr → s.pal = true → Memory.wf s.snk = true → s.sizes.wellFormed = true →
    s.header.palEntries.toNat ≤ 256 → s.snkLen.toNat + 12 + 3 * s.header.palEntries.toNat ≤ s.sizes.snk →
    ∃ t body, exec .plte s = .next t ∧ body.length = 3 * s.header.palEntries.toNat ∧
      (∀ k : Fin 256, k.val < s.header.palEntries.toNat →
        (body.drop (3 * k.val)).take 3 =
          [(s.palette[k.val]).extractLsb' 16 8, (s.palette[k.val]).extractLsb' 8 8,
           (s.palette[k.val]).extractLsb' 0 8]) ∧
      Stored s.snk t.snk s.snkLen.toNat (frame [0x50#8, 0x4C#8, 0x54#8, 0x45#8] body) ∧
      t.snkLen.toNat = s.snkLen.toNat + 12 + 3 * s.header.palEntries.toNat ∧
      t.lastCrc = crc32 ([0x50#8, 0x4C#8, 0x54#8, 0x45#8] ++ body) ∧
      t = { s with snk := t.snk, snkLen := t.snkLen, lastCrc := t.lastCrc, phase := .plt }

/-- IDAT, in HDR of a truecolour image or in PLT, appends the IDAT chunk of the ARG1 bytes of PAY from ARG0 on, taken as
they are; LAST_CRC is its CRC and PHASE is DAT; everything else stays (R115, R110). -/
def Obligations.IdatResult : Prop :=
  ∀ s : State, (s.phase = .hdr ∧ s.pal = false) ∨ s.phase = .plt → Memory.wf s.snk = true →
    s.sizes.wellFormed = true → s.arg0.toNat + s.arg1.toNat ≤ s.sizes.pay →
    s.snkLen.toNat + 12 + s.arg1.toNat ≤ s.sizes.snk →
    ∃ t body, exec .idat s = .next t ∧
      body = (List.range s.arg1.toNat).map (fun k => Memory.read s.pay (s.arg0.toNat + k)) ∧
      Stored s.snk t.snk s.snkLen.toNat (frame [0x49#8, 0x44#8, 0x41#8, 0x54#8] body) ∧
      t.snkLen.toNat = s.snkLen.toNat + 12 + s.arg1.toNat ∧
      t.lastCrc = crc32 ([0x49#8, 0x44#8, 0x41#8, 0x54#8] ++ body) ∧
      t = { s with snk := t.snk, snkLen := t.snkLen, lastCrc := t.lastCrc, phase := .dat }

/-- IEND in DAT appends the twelve bytes of the IEND chunk, the frame of an empty body; LAST_CRC is 0xAE426082 and PHASE
is DONE; everything else stays (R116, R111). -/
def Obligations.IendResult : Prop :=
  frame [0x49#8, 0x45#8, 0x4E#8, 0x44#8] [] =
    [0x00#8, 0x00#8, 0x00#8, 0x00#8, 0x49#8, 0x45#8, 0x4E#8, 0x44#8, 0xAE#8, 0x42#8, 0x60#8, 0x82#8] ∧
  ∀ s : State, s.phase = .dat → Memory.wf s.snk = true → s.sizes.wellFormed = true →
    s.snkLen.toNat + 12 ≤ s.sizes.snk →
    ∃ t, exec .iend s = .next t ∧
      Stored s.snk t.snk s.snkLen.toNat
        [0x00#8, 0x00#8, 0x00#8, 0x00#8, 0x49#8, 0x45#8, 0x4E#8, 0x44#8, 0xAE#8, 0x42#8, 0x60#8, 0x82#8] ∧
      t.snkLen.toNat = s.snkLen.toNat + 12 ∧
      t = { s with snk := t.snk, snkLen := t.snkLen, lastCrc := 0xAE426082#32, phase := .done }

/-- A framer command outside its phase condition raises SequenceError and changes nothing else (R107, R112 to R116). -/
def Obligations.FramerSequenceErrors : Prop :=
  ∀ s : State,
    (s.phase ≠ .parsed → exec .pngsig s = .next { s with err := some .sequenceError, errCmd := 0x00000040#32 }) ∧
    (s.phase ≠ .sig → exec .ihdr s = .next { s with err := some .sequenceError, errCmd := 0x00000041#32 }) ∧
    (¬ (s.phase = .hdr ∧ s.pal = true) →
      exec .plte s = .next { s with err := some .sequenceError, errCmd := 0x00000042#32 }) ∧
    (¬ ((s.phase = .hdr ∧ s.pal = false) ∨ s.phase = .plt) →
      exec .idat s = .next { s with err := some .sequenceError, errCmd := 0x00000043#32 }) ∧
    (s.phase ≠ .dat → exec .iend s = .next { s with err := some .sequenceError, errCmd := 0x00000044#32 })

/-- A framer command whose bytes do not fit in SNK raises IOError with no byte written; IDAT first raises RangeError for
a payload range that leaves PAY, IHDR first InvalidDimensions for a zero width or height (R105, R113, R115, R124). -/
def Obligations.FramerOtherErrors : Prop :=
  ∀ s : State,
    (s.phase = .parsed → s.sizes.snk < s.snkLen.toNat + 8 →
      exec .pngsig s = .next { s with err := some .ioError, errCmd := 0x00000040#32 }) ∧
    (s.phase = .sig → s.header.width = 0#32 ∨ s.header.height = 0#32 →
      exec .ihdr s = .next { s with err := some .invalidDimensions, errCmd := 0x00000041#32 }) ∧
    (s.phase = .sig → s.header.width ≠ 0#32 → s.header.height ≠ 0#32 → s.sizes.snk < s.snkLen.toNat + 25 →
      exec .ihdr s = .next { s with err := some .ioError, errCmd := 0x00000041#32 }) ∧
    (s.phase = .hdr → s.pal = true → s.header.palEntries.toNat ≤ 256 →
      s.sizes.snk < s.snkLen.toNat + 12 + 3 * s.header.palEntries.toNat →
      exec .plte s = .next { s with err := some .ioError, errCmd := 0x00000042#32 }) ∧
    ((s.phase = .hdr ∧ s.pal = false) ∨ s.phase = .plt → s.sizes.pay < s.arg0.toNat + s.arg1.toNat →
      exec .idat s = .next { s with err := some .rangeError, errCmd := 0x00000043#32 }) ∧
    ((s.phase = .hdr ∧ s.pal = false) ∨ s.phase = .plt → s.arg0.toNat + s.arg1.toNat ≤ s.sizes.pay →
      s.sizes.snk < s.snkLen.toNat + 12 + s.arg1.toNat →
      exec .idat s = .next { s with err := some .ioError, errCmd := 0x00000043#32 }) ∧
    (s.phase = .dat → s.sizes.snk < s.snkLen.toNat + 12 →
      exec .iend s = .next { s with err := some .ioError, errCmd := 0x00000044#32 })

/-! ## Whole-machine rules -/

/-- PHASE moves only by the commands R22 names, each from and to the phases of R107, and RESET to IDLE; a raised error
leaves it. -/
def Obligations.PhaseMovesOnlyByItsCommands : Prop :=
  ∀ (i : Instr) (s t : State), exec i s = .next t →
    t.phase = s.phase ∨
    (i = .reset ∧ t.phase = .idle) ∨
    (t.err = s.err ∧
      ((i = .parse ∧ s.phase = .idle ∧ t.phase = .parsed) ∨
       (i = .pngsig ∧ s.phase = .parsed ∧ t.phase = .sig) ∨
       (i = .ihdr ∧ s.phase = .sig ∧ t.phase = .hdr) ∨
       (i = .plte ∧ s.phase = .hdr ∧ s.pal = true ∧ t.phase = .plt) ∨
       (i = .idat ∧ ((s.phase = .hdr ∧ s.pal = false) ∨ s.phase = .plt) ∧ t.phase = .dat) ∨
       (i = .iend ∧ s.phase = .dat ∧ t.phase = .done)))

/-- Which command writes which register and which memory (10_state.md section 9; R19, R20, R25, R26, R33): no command
writes SRC or PAY or anything of the host's; only the commands listed write SCN, SNK, SNK_LEN, the CRC registers, the
header registers and the operands. -/
def Obligations.CommandsWriteOnlyWhatTheyMay : Prop :=
  ∀ (i : Instr) (s t : State), exec i s = .next t →
    t.src = s.src ∧ t.pay = s.pay ∧ t.sizes = s.sizes ∧ t.inputs = s.inputs ∧ t.delays = s.delays ∧
    t.lastRead = s.lastRead ∧
    (i ∉ [.xrow, .xall] → t.scn = s.scn) ∧
    (i ∉ [.pngsig, .ihdr, .plte, .idat, .iend] → t.snk = s.snk) ∧
    (i ∉ [.reset, .pngsig, .ihdr, .plte, .idat, .iend] → t.snkLen = s.snkLen) ∧
    (i ∉ [.reset, .ihdr, .plte, .idat, .iend] → t.lastCrc = s.lastCrc) ∧
    (i ∉ [.reset, .crcfin] → t.crcRes = s.crcRes) ∧
    (i ≠ .reset → i ≠ .crcinit → (∀ b, i ≠ .crcb b) → (∀ sp, i ≠ .crcupd sp) → t.crcAcc = s.crcAcc) ∧
    (i ∉ [.reset, .parse] →
      t.header = s.header ∧ t.palette = s.palette ∧ t.scnLen = s.scnLen ∧ t.pal = s.pal) ∧
    (i ≠ .reset → t.arg0 = s.arg0 ∧ t.arg1 = s.arg1 ∧ t.srcLen = s.srcLen ∧ t.inFlight = s.inFlight)

/-- Every step keeps every memory in its canonical form and inside its space (R33; the canonical form is the
model's, log 2). -/
def Obligations.EveryStepKeepsMemoriesCanonical : Prop :=
  ∀ s t : State, MemoriesOk s → step s = .next t → MemoriesOk t

/-- Every step keeps R27 of 10_state.md: whenever PHASE is not IDLE the header registers satisfy its relations. -/
def Obligations.EveryStepKeepsTheHeaderRelations : Prop :=
  ∀ s t : State, HeaderOk s → step s = .next t → HeaderOk t

/-- Every step keeps the whole invariant; in particular SNK[0 .. SNK_LEN-1] is always the PNG stream the encoder's state
machine has written so far, a complete PNG file in DONE (R106, R107, R123). -/
def Obligations.EveryStepKeepsTheInvariant : Prop :=
  ∀ s t : State, Inv s → step s = .next t → Inv t

/-- The invariant holds after power-on, for every legal size and all memory contents of those sizes (R32, R47); in
particular in State.reset, whose sizes and empty memories are the model's choice (log 1, log 2). -/
def Obligations.PowerOnMeetsTheInvariant : Prop :=
  (∀ (z : Sizes) (src scn pay snk : Memory), z.wellFormed = true → MemoriesOk (State.powerOn z src scn pay snk) →
    Inv (State.powerOn z src scn pay snk)) ∧
  Inv State.reset

/-- From a state of the invariant the engine never reads or writes outside a space or the palette file (R84, R90): the
two faults of the engine, which the model has for accesses that the spec does not define (log 11), are never raised. -/
def Obligations.EngineStaysInsideItsSpaces : Prop :=
  ∀ s : State, Inv s → engineFault (step s) = false
end

