-- ==== Sys2Proof/Laws/Memory.lean ====
section
/-! SUPPORT. The laws of one memory: reading after writing, the canonical form, and the bytes a store leaves alone. -/

namespace Sys2Proof.Laws

open Sys2Proof.Machine

/-! ## The canonical form -/

theorem wfFrom_mono {lo lo' : Nat} {m : Memory} (h : Memory.wfFrom lo m = true) (hle : lo' ≤ lo) :
    Memory.wfFrom lo' m = true := by
  cases m with
  | nil => rfl
  | cons c m =>
    simp only [Memory.wfFrom, Bool.and_eq_true, decide_eq_true_eq] at h ⊢
    exact ⟨⟨Nat.le_trans hle h.1.1, h.1.2⟩, h.2⟩

/-- Below the first listed address of a canonical memory every address is unlisted. -/
theorem read_below {lo : Nat} {m : Memory} (h : Memory.wfFrom lo m = true) {a : Nat} (ha : a < lo) :
    Memory.read m a = Config.unlistedByte := by
  induction m generalizing lo with
  | nil => rfl
  | cons c m ih =>
    obtain ⟨k, v⟩ := c
    simp only [Memory.wfFrom, Bool.and_eq_true, decide_eq_true_eq] at h
    have hk : k ≠ a := by omega
    simp only [Memory.read, if_neg hk]
    exact ih h.2 (by omega)

theorem write_wfFrom {lo a : Nat} {m : Memory} (v : Byte) (h : Memory.wfFrom lo m = true) (ha : lo ≤ a) :
    Memory.wfFrom lo (Memory.write m a v) = true := by
  induction m generalizing lo with
  | nil =>
    simp only [Memory.write]
    split
    · rfl
    · rename_i hv
      simp [Memory.wfFrom, ha, hv]
  | cons c m ih =>
    obtain ⟨k, w⟩ := c
    have hc := h
    simp only [Memory.wfFrom, Bool.and_eq_true, decide_eq_true_eq, bne_iff_ne, ne_eq] at h
    simp only [Memory.write]
    split_ifs with h1 h2 h3 h4
    · exact hc
    · simp only [Memory.wfFrom, Bool.and_eq_true, decide_eq_true_eq, bne_iff_ne, ne_eq]
      exact ⟨⟨ha, h2⟩, ⟨by omega, h.1.2⟩, h.2⟩
    · exact wfFrom_mono h.2 (by omega)
    · simp only [Memory.wfFrom, Bool.and_eq_true, decide_eq_true_eq, bne_iff_ne, ne_eq]
      exact ⟨⟨ha, h4⟩, h3 ▸ h.2⟩
    · simp only [Memory.wfFrom, Bool.and_eq_true, decide_eq_true_eq, bne_iff_ne, ne_eq]
      exact ⟨⟨h.1.1, h.1.2⟩, ih h.2 (by omega)⟩

/-- A store keeps the canonical form. -/
theorem write_wf {m : Memory} (h : Memory.wf m = true) (a : Nat) (v : Byte) : Memory.wf (Memory.write m a v) = true :=
  write_wfFrom v h (Nat.zero_le a)

/-- A store of several bytes keeps the canonical form. -/
theorem writeBytes_wf {m : Memory} (h : Memory.wf m = true) (a : Nat) (bs : List Byte) :
    Memory.wf (Memory.writeBytes m a bs) = true := by
  induction bs generalizing m a with
  | nil => exact h
  | cons b bs ih => exact ih (write_wf h a b) (a + 1)

/-- The memory that holds given bytes from address 0 on is canonical. -/
theorem ofBytes_wf (size : Nat) (bs : List Byte) : Memory.wf (Memory.ofBytes size bs) = true :=
  writeBytes_wf rfl 0 _

/-! ## Addresses stay in the space -/

theorem write_within {size a : Nat} {m : Memory} (v : Byte) (h : Memory.within size m = true) (ha : a < size) :
    Memory.within size (Memory.write m a v) = true := by
  induction m with
  | nil =>
    simp only [Memory.write]
    split
    · rfl
    · simp [Memory.within, ha]
  | cons c m ih =>
    obtain ⟨k, w⟩ := c
    simp only [Memory.within, List.all_cons, Bool.and_eq_true, decide_eq_true_eq] at h ih
    simp only [Memory.write]
    split_ifs <;> simp only [Memory.within, List.all_cons, Bool.and_eq_true, decide_eq_true_eq]
    · exact h
    · exact ⟨ha, h⟩
    · exact h.2
    · exact ⟨ha, h.2⟩
    · exact ⟨h.1, ih h.2⟩

theorem writeBytes_within {size a : Nat} {m : Memory} {bs : List Byte} (h : Memory.within size m = true)
    (ha : a + bs.length ≤ size) : Memory.within size (Memory.writeBytes m a bs) = true := by
  induction bs generalizing m a with
  | nil => exact h
  | cons b bs ih =>
    simp only [List.length_cons] at ha
    exact ih (write_within b h (by omega)) (by omega)

theorem ofBytes_within (size : Nat) (bs : List Byte) : Memory.within size (Memory.ofBytes size bs) = true :=
  writeBytes_within rfl (by simp only [List.length_take]; omega)

/-! ## Reading after writing -/

theorem read_write_self_from {lo a : Nat} {m : Memory} (v : Byte) (h : Memory.wfFrom lo m = true) :
    Memory.read (Memory.write m a v) a = v := by
  induction m generalizing lo with
  | nil =>
    simp only [Memory.write]
    split
    · rename_i hv; rw [hv]; rfl
    · simp [Memory.read]
  | cons c m ih =>
    obtain ⟨k, w⟩ := c
    have hc := h
    simp only [Memory.wfFrom, Bool.and_eq_true, decide_eq_true_eq, bne_iff_ne, ne_eq] at h
    simp only [Memory.write]
    split_ifs with h1 h2 h3 h4
    · have hk : k ≠ a := by omega
      simp only [Memory.read, if_neg hk]
      rw [h2]
      exact read_below h.2 (by omega)
    · simp [Memory.read]
    · rw [h4]
      exact read_below h.2 (by omega)
    · simp [Memory.read]
    · simp only [Memory.read, if_neg h3]
      exact ih h.2

/-- A read after a write to the same address gives the byte written. -/
theorem read_write_self {m : Memory} (h : Memory.wf m = true) (a : Nat) (v : Byte) :
    Memory.read (Memory.write m a v) a = v :=
  read_write_self_from v h

/-- A write leaves every other address alone, in any list. -/
theorem read_write_other {m : Memory} {a b : Nat} (v : Byte) (hab : b ≠ a) :
    Memory.read (Memory.write m a v) b = Memory.read m b := by
  have hab' : ¬ a = b := fun h => hab h.symm
  induction m with
  | nil =>
    simp only [Memory.write]
    split <;> simp [Memory.read, hab']
  | cons c m ih =>
    obtain ⟨k, w⟩ := c
    simp only [Memory.write]
    split_ifs with h1 h2 h3 h4
    · rfl
    · simp [Memory.read, hab']
    · have hk : k ≠ b := by omega
      simp [Memory.read, hk]
    · have hk : k ≠ b := by omega
      simp [Memory.read, hk, hab']
    · simp only [Memory.read]
      rw [ih]

/-- A store of several bytes leaves every address outside them alone, in any list. -/
theorem read_writeBytes_outside {m : Memory} {a b : Nat} {bs : List Byte} (h : b < a ∨ a + bs.length ≤ b) :
    Memory.read (Memory.writeBytes m a bs) b = Memory.read m b := by
  induction bs generalizing m a with
  | nil => rfl
  | cons c bs ih =>
    simp only [List.length_cons] at h
    rw [Memory.writeBytes, ih (by omega), read_write_other c (by omega)]

/-- Inside a store the bytes stored are read. -/
theorem read_writeBytes_inside {m : Memory} (hm : Memory.wf m = true) {a k : Nat} {bs : List Byte}
    (h : k < bs.length) : Memory.read (Memory.writeBytes m a bs) (a + k) = bs[k] := by
  induction bs generalizing m a k with
  | nil => exact absurd h (Nat.not_lt_zero k)
  | cons c bs ih =>
    cases k with
    | zero =>
      rw [Memory.writeBytes, read_writeBytes_outside (by omega)]
      exact read_write_self hm a c
    | succ k =>
      have h' : k < bs.length := by simpa using h
      have hk : a + (k + 1) = a + 1 + k := by omega
      rw [Memory.writeBytes, hk, ih (write_wf hm a c) h']
      rfl

/-- What a store of several bytes does, said once. -/
theorem writeBytes_stored {m : Memory} (hm : Memory.wf m = true) (a : Nat) (bs : List Byte) :
    Stored m (Memory.writeBytes m a bs) a bs :=
  ⟨fun _ h => read_writeBytes_inside hm h, fun _ h => read_writeBytes_outside h⟩

/-! ## Reading several bytes -/

@[simp] theorem readBytes_length (m : Memory) (a n : Nat) : (Memory.readBytes m a n).length = n := by
  simp [Memory.readBytes]

@[simp] theorem readBytes_getElem (m : Memory) (a n k : Nat) (h : k < (Memory.readBytes m a n).length) :
    (Memory.readBytes m a n)[k] = Memory.read m (a + k) := by
  simp [Memory.readBytes]

theorem readBytes_congr {m m' : Memory} {a n : Nat} (h : ∀ k, k < n → Memory.read m (a + k) = Memory.read m' (a + k)) :
    Memory.readBytes m a n = Memory.readBytes m' a n := by
  apply List.ext_getElem <;> simp
  exact fun k hk => h k hk

theorem readBytes_append (m : Memory) (a n n' : Nat) :
    Memory.readBytes m a (n + n') = Memory.readBytes m a n ++ Memory.readBytes m (a + n) n' := by
  apply List.ext_getElem
  · simp
  · intro k h1 h2
    simp only [readBytes_length] at h1
    by_cases hk : k < n
    · rw [List.getElem_append_left (by simpa using hk)]
      simp
    · rw [List.getElem_append_right (by simpa using Nat.le_of_not_lt hk)]
      simp only [readBytes_getElem, readBytes_length]
      congr 1
      omega

/-- Reading back a store. -/
theorem readBytes_stored {m m' : Memory} {a : Nat} {bs : List Byte} (h : Stored m m' a bs) :
    Memory.readBytes m' a bs.length = bs := by
  apply List.ext_getElem
  · simp
  · intro k h1 h2
    simp only [readBytes_getElem]
    exact h.1 k h2

/-- Equal memories are equal data: two canonical memories that read alike at every address are the same list. -/
theorem memory_ext {lo lo' : Nat} {m m' : Memory} (h : Memory.wfFrom lo m = true) (h' : Memory.wfFrom lo' m' = true)
    (hr : ∀ a, Memory.read m a = Memory.read m' a) : m = m' := by
  induction m generalizing lo lo' m' with
  | nil =>
    cases m' with
    | nil => rfl
    | cons c' m' =>
      simp only [Memory.wfFrom, Bool.and_eq_true, decide_eq_true_eq, bne_iff_ne, ne_eq] at h'
      have := hr c'.1
      simp [Memory.read] at this
      exact absurd this.symm h'.1.2
  | cons c m ih =>
    have hc := h
    simp only [Memory.wfFrom, Bool.and_eq_true, decide_eq_true_eq, bne_iff_ne, ne_eq] at h
    cases m' with
    | nil =>
      have := hr c.1
      simp [Memory.read] at this
      exact absurd this h.1.2
    | cons c' m' =>
      have hc' := h'
      simp only [Memory.wfFrom, Bool.and_eq_true, decide_eq_true_eq, bne_iff_ne, ne_eq] at h'
      have hk : c.1 = c'.1 := by
        rcases Nat.lt_trichotomy c.1 c'.1 with hlt | heq | hgt
        · have h1 := hr c.1
          have h2 : Memory.read (c' :: m') c.1 = Config.unlistedByte :=
            read_below (lo := c'.1) (by
              simp only [Memory.wfFrom, Bool.and_eq_true, decide_eq_true_eq, bne_iff_ne, ne_eq]
              exact ⟨⟨Nat.le_refl _, h'.1.2⟩, h'.2⟩) hlt
          rw [h2] at h1
          simp [Memory.read] at h1
          exact absurd h1 h.1.2
        · exact heq
        · have h1 := hr c'.1
          have h2 : Memory.read (c :: m) c'.1 = Config.unlistedByte :=
            read_below (lo := c.1) (by
              simp only [Memory.wfFrom, Bool.and_eq_true, decide_eq_true_eq, bne_iff_ne, ne_eq]
              exact ⟨⟨Nat.le_refl _, h.1.2⟩, h.2⟩) hgt
          rw [h2] at h1
          simp [Memory.read] at h1
          exact absurd h1.symm h'.1.2
      have hv : c.2 = c'.2 := by
        have h1 := hr c.1
        rw [show Memory.read (c :: m) c.1 = c.2 by simp [Memory.read]] at h1
        rw [hk] at h1
        rw [show Memory.read (c' :: m') c'.1 = c'.2 by simp [Memory.read]] at h1
        exact h1
      have htail : m = m' := by
        refine ih h.2 h'.2 (fun a => ?_)
        by_cases ha : c.1 = a
        · rw [read_below h.2 (by omega), read_below h'.2 (by omega)]
        · have h1 := hr a
          have ha' : ¬ c'.1 = a := by omega
          simp only [Memory.read, if_neg ha, if_neg ha'] at h1
          exact h1
      rw [htail, Prod.ext hk hv]

end Sys2Proof.Laws
end

