-- ==== Sys2Proof/Laws/State.lean ====
section
/-! SUPPORT. One lemma per field per update of State, true by rfl. -/

namespace Sys2Proof.Laws

open Sys2Proof.Machine

/-! ## setCrcAcc -/

@[simp] theorem setCrcAcc_sizes (s : State) (v : Word) : (s.setCrcAcc v).sizes = s.sizes := rfl
@[simp] theorem setCrcAcc_arg0 (s : State) (v : Word) : (s.setCrcAcc v).arg0 = s.arg0 := rfl
@[simp] theorem setCrcAcc_arg1 (s : State) (v : Word) : (s.setCrcAcc v).arg1 = s.arg1 := rfl
@[simp] theorem setCrcAcc_srcLen (s : State) (v : Word) : (s.setCrcAcc v).srcLen = s.srcLen := rfl
@[simp] theorem setCrcAcc_scnLen (s : State) (v : Word) : (s.setCrcAcc v).scnLen = s.scnLen := rfl
@[simp] theorem setCrcAcc_snkLen (s : State) (v : Word) : (s.setCrcAcc v).snkLen = s.snkLen := rfl
@[simp] theorem setCrcAcc_crcAcc (s : State) (v : Word) : (s.setCrcAcc v).crcAcc = v := rfl
@[simp] theorem setCrcAcc_crcRes (s : State) (v : Word) : (s.setCrcAcc v).crcRes = s.crcRes := rfl
@[simp] theorem setCrcAcc_lastCrc (s : State) (v : Word) : (s.setCrcAcc v).lastCrc = s.lastCrc := rfl
@[simp] theorem setCrcAcc_errCmd (s : State) (v : Word) : (s.setCrcAcc v).errCmd = s.errCmd := rfl
@[simp] theorem setCrcAcc_err (s : State) (v : Word) : (s.setCrcAcc v).err = s.err := rfl
@[simp] theorem setCrcAcc_phase (s : State) (v : Word) : (s.setCrcAcc v).phase = s.phase := rfl
@[simp] theorem setCrcAcc_pal (s : State) (v : Word) : (s.setCrcAcc v).pal = s.pal := rfl
@[simp] theorem setCrcAcc_header (s : State) (v : Word) : (s.setCrcAcc v).header = s.header := rfl
@[simp] theorem setCrcAcc_palette (s : State) (v : Word) : (s.setCrcAcc v).palette = s.palette := rfl
@[simp] theorem setCrcAcc_src (s : State) (v : Word) : (s.setCrcAcc v).src = s.src := rfl
@[simp] theorem setCrcAcc_scn (s : State) (v : Word) : (s.setCrcAcc v).scn = s.scn := rfl
@[simp] theorem setCrcAcc_pay (s : State) (v : Word) : (s.setCrcAcc v).pay = s.pay := rfl
@[simp] theorem setCrcAcc_snk (s : State) (v : Word) : (s.setCrcAcc v).snk = s.snk := rfl
@[simp] theorem setCrcAcc_inFlight (s : State) (v : Word) : (s.setCrcAcc v).inFlight = s.inFlight := rfl
@[simp] theorem setCrcAcc_delays (s : State) (v : Word) : (s.setCrcAcc v).delays = s.delays := rfl
@[simp] theorem setCrcAcc_inputs (s : State) (v : Word) : (s.setCrcAcc v).inputs = s.inputs := rfl
@[simp] theorem setCrcAcc_lastRead (s : State) (v : Word) : (s.setCrcAcc v).lastRead = s.lastRead := rfl

/-! ## setCrcRes -/

@[simp] theorem setCrcRes_sizes (s : State) (v : Word) : (s.setCrcRes v).sizes = s.sizes := rfl
@[simp] theorem setCrcRes_arg0 (s : State) (v : Word) : (s.setCrcRes v).arg0 = s.arg0 := rfl
@[simp] theorem setCrcRes_arg1 (s : State) (v : Word) : (s.setCrcRes v).arg1 = s.arg1 := rfl
@[simp] theorem setCrcRes_srcLen (s : State) (v : Word) : (s.setCrcRes v).srcLen = s.srcLen := rfl
@[simp] theorem setCrcRes_scnLen (s : State) (v : Word) : (s.setCrcRes v).scnLen = s.scnLen := rfl
@[simp] theorem setCrcRes_snkLen (s : State) (v : Word) : (s.setCrcRes v).snkLen = s.snkLen := rfl
@[simp] theorem setCrcRes_crcAcc (s : State) (v : Word) : (s.setCrcRes v).crcAcc = s.crcAcc := rfl
@[simp] theorem setCrcRes_crcRes (s : State) (v : Word) : (s.setCrcRes v).crcRes = v := rfl
@[simp] theorem setCrcRes_lastCrc (s : State) (v : Word) : (s.setCrcRes v).lastCrc = s.lastCrc := rfl
@[simp] theorem setCrcRes_errCmd (s : State) (v : Word) : (s.setCrcRes v).errCmd = s.errCmd := rfl
@[simp] theorem setCrcRes_err (s : State) (v : Word) : (s.setCrcRes v).err = s.err := rfl
@[simp] theorem setCrcRes_phase (s : State) (v : Word) : (s.setCrcRes v).phase = s.phase := rfl
@[simp] theorem setCrcRes_pal (s : State) (v : Word) : (s.setCrcRes v).pal = s.pal := rfl
@[simp] theorem setCrcRes_header (s : State) (v : Word) : (s.setCrcRes v).header = s.header := rfl
@[simp] theorem setCrcRes_palette (s : State) (v : Word) : (s.setCrcRes v).palette = s.palette := rfl
@[simp] theorem setCrcRes_src (s : State) (v : Word) : (s.setCrcRes v).src = s.src := rfl
@[simp] theorem setCrcRes_scn (s : State) (v : Word) : (s.setCrcRes v).scn = s.scn := rfl
@[simp] theorem setCrcRes_pay (s : State) (v : Word) : (s.setCrcRes v).pay = s.pay := rfl
@[simp] theorem setCrcRes_snk (s : State) (v : Word) : (s.setCrcRes v).snk = s.snk := rfl
@[simp] theorem setCrcRes_inFlight (s : State) (v : Word) : (s.setCrcRes v).inFlight = s.inFlight := rfl
@[simp] theorem setCrcRes_delays (s : State) (v : Word) : (s.setCrcRes v).delays = s.delays := rfl
@[simp] theorem setCrcRes_inputs (s : State) (v : Word) : (s.setCrcRes v).inputs = s.inputs := rfl
@[simp] theorem setCrcRes_lastRead (s : State) (v : Word) : (s.setCrcRes v).lastRead = s.lastRead := rfl

/-! ## setPhase -/

@[simp] theorem setPhase_sizes (s : State) (p : Phase) : (s.setPhase p).sizes = s.sizes := rfl
@[simp] theorem setPhase_arg0 (s : State) (p : Phase) : (s.setPhase p).arg0 = s.arg0 := rfl
@[simp] theorem setPhase_arg1 (s : State) (p : Phase) : (s.setPhase p).arg1 = s.arg1 := rfl
@[simp] theorem setPhase_srcLen (s : State) (p : Phase) : (s.setPhase p).srcLen = s.srcLen := rfl
@[simp] theorem setPhase_scnLen (s : State) (p : Phase) : (s.setPhase p).scnLen = s.scnLen := rfl
@[simp] theorem setPhase_snkLen (s : State) (p : Phase) : (s.setPhase p).snkLen = s.snkLen := rfl
@[simp] theorem setPhase_crcAcc (s : State) (p : Phase) : (s.setPhase p).crcAcc = s.crcAcc := rfl
@[simp] theorem setPhase_crcRes (s : State) (p : Phase) : (s.setPhase p).crcRes = s.crcRes := rfl
@[simp] theorem setPhase_lastCrc (s : State) (p : Phase) : (s.setPhase p).lastCrc = s.lastCrc := rfl
@[simp] theorem setPhase_errCmd (s : State) (p : Phase) : (s.setPhase p).errCmd = s.errCmd := rfl
@[simp] theorem setPhase_err (s : State) (p : Phase) : (s.setPhase p).err = s.err := rfl
@[simp] theorem setPhase_phase (s : State) (p : Phase) : (s.setPhase p).phase = p := rfl
@[simp] theorem setPhase_pal (s : State) (p : Phase) : (s.setPhase p).pal = s.pal := rfl
@[simp] theorem setPhase_header (s : State) (p : Phase) : (s.setPhase p).header = s.header := rfl
@[simp] theorem setPhase_palette (s : State) (p : Phase) : (s.setPhase p).palette = s.palette := rfl
@[simp] theorem setPhase_src (s : State) (p : Phase) : (s.setPhase p).src = s.src := rfl
@[simp] theorem setPhase_scn (s : State) (p : Phase) : (s.setPhase p).scn = s.scn := rfl
@[simp] theorem setPhase_pay (s : State) (p : Phase) : (s.setPhase p).pay = s.pay := rfl
@[simp] theorem setPhase_snk (s : State) (p : Phase) : (s.setPhase p).snk = s.snk := rfl
@[simp] theorem setPhase_inFlight (s : State) (p : Phase) : (s.setPhase p).inFlight = s.inFlight := rfl
@[simp] theorem setPhase_delays (s : State) (p : Phase) : (s.setPhase p).delays = s.delays := rfl
@[simp] theorem setPhase_inputs (s : State) (p : Phase) : (s.setPhase p).inputs = s.inputs := rfl
@[simp] theorem setPhase_lastRead (s : State) (p : Phase) : (s.setPhase p).lastRead = s.lastRead := rfl

/-! ## setLastCrc -/

@[simp] theorem setLastCrc_sizes (s : State) (v : Word) : (s.setLastCrc v).sizes = s.sizes := rfl
@[simp] theorem setLastCrc_arg0 (s : State) (v : Word) : (s.setLastCrc v).arg0 = s.arg0 := rfl
@[simp] theorem setLastCrc_arg1 (s : State) (v : Word) : (s.setLastCrc v).arg1 = s.arg1 := rfl
@[simp] theorem setLastCrc_srcLen (s : State) (v : Word) : (s.setLastCrc v).srcLen = s.srcLen := rfl
@[simp] theorem setLastCrc_scnLen (s : State) (v : Word) : (s.setLastCrc v).scnLen = s.scnLen := rfl
@[simp] theorem setLastCrc_snkLen (s : State) (v : Word) : (s.setLastCrc v).snkLen = s.snkLen := rfl
@[simp] theorem setLastCrc_crcAcc (s : State) (v : Word) : (s.setLastCrc v).crcAcc = s.crcAcc := rfl
@[simp] theorem setLastCrc_crcRes (s : State) (v : Word) : (s.setLastCrc v).crcRes = s.crcRes := rfl
@[simp] theorem setLastCrc_lastCrc (s : State) (v : Word) : (s.setLastCrc v).lastCrc = v := rfl
@[simp] theorem setLastCrc_errCmd (s : State) (v : Word) : (s.setLastCrc v).errCmd = s.errCmd := rfl
@[simp] theorem setLastCrc_err (s : State) (v : Word) : (s.setLastCrc v).err = s.err := rfl
@[simp] theorem setLastCrc_phase (s : State) (v : Word) : (s.setLastCrc v).phase = s.phase := rfl
@[simp] theorem setLastCrc_pal (s : State) (v : Word) : (s.setLastCrc v).pal = s.pal := rfl
@[simp] theorem setLastCrc_header (s : State) (v : Word) : (s.setLastCrc v).header = s.header := rfl
@[simp] theorem setLastCrc_palette (s : State) (v : Word) : (s.setLastCrc v).palette = s.palette := rfl
@[simp] theorem setLastCrc_src (s : State) (v : Word) : (s.setLastCrc v).src = s.src := rfl
@[simp] theorem setLastCrc_scn (s : State) (v : Word) : (s.setLastCrc v).scn = s.scn := rfl
@[simp] theorem setLastCrc_pay (s : State) (v : Word) : (s.setLastCrc v).pay = s.pay := rfl
@[simp] theorem setLastCrc_snk (s : State) (v : Word) : (s.setLastCrc v).snk = s.snk := rfl
@[simp] theorem setLastCrc_inFlight (s : State) (v : Word) : (s.setLastCrc v).inFlight = s.inFlight := rfl
@[simp] theorem setLastCrc_delays (s : State) (v : Word) : (s.setLastCrc v).delays = s.delays := rfl
@[simp] theorem setLastCrc_inputs (s : State) (v : Word) : (s.setLastCrc v).inputs = s.inputs := rfl
@[simp] theorem setLastCrc_lastRead (s : State) (v : Word) : (s.setLastCrc v).lastRead = s.lastRead := rfl

/-! ## retire -/

@[simp] theorem retire_sizes (s : State) : (s.retire).sizes = s.sizes := rfl
@[simp] theorem retire_arg0 (s : State) : (s.retire).arg0 = s.arg0 := rfl
@[simp] theorem retire_arg1 (s : State) : (s.retire).arg1 = s.arg1 := rfl
@[simp] theorem retire_srcLen (s : State) : (s.retire).srcLen = s.srcLen := rfl
@[simp] theorem retire_scnLen (s : State) : (s.retire).scnLen = s.scnLen := rfl
@[simp] theorem retire_snkLen (s : State) : (s.retire).snkLen = s.snkLen := rfl
@[simp] theorem retire_crcAcc (s : State) : (s.retire).crcAcc = s.crcAcc := rfl
@[simp] theorem retire_crcRes (s : State) : (s.retire).crcRes = s.crcRes := rfl
@[simp] theorem retire_lastCrc (s : State) : (s.retire).lastCrc = s.lastCrc := rfl
@[simp] theorem retire_errCmd (s : State) : (s.retire).errCmd = s.errCmd := rfl
@[simp] theorem retire_err (s : State) : (s.retire).err = s.err := rfl
@[simp] theorem retire_phase (s : State) : (s.retire).phase = s.phase := rfl
@[simp] theorem retire_pal (s : State) : (s.retire).pal = s.pal := rfl
@[simp] theorem retire_header (s : State) : (s.retire).header = s.header := rfl
@[simp] theorem retire_palette (s : State) : (s.retire).palette = s.palette := rfl
@[simp] theorem retire_src (s : State) : (s.retire).src = s.src := rfl
@[simp] theorem retire_scn (s : State) : (s.retire).scn = s.scn := rfl
@[simp] theorem retire_pay (s : State) : (s.retire).pay = s.pay := rfl
@[simp] theorem retire_snk (s : State) : (s.retire).snk = s.snk := rfl
@[simp] theorem retire_inFlight (s : State) : (s.retire).inFlight = none := rfl
@[simp] theorem retire_delays (s : State) : (s.retire).delays = s.delays := rfl
@[simp] theorem retire_inputs (s : State) : (s.retire).inputs = s.inputs := rfl
@[simp] theorem retire_lastRead (s : State) : (s.retire).lastRead = s.lastRead := rfl

/-! ## hostSaw -/

@[simp] theorem hostSaw_sizes (s : State) (v : Word) : (s.hostSaw v).sizes = s.sizes := rfl
@[simp] theorem hostSaw_arg0 (s : State) (v : Word) : (s.hostSaw v).arg0 = s.arg0 := rfl
@[simp] theorem hostSaw_arg1 (s : State) (v : Word) : (s.hostSaw v).arg1 = s.arg1 := rfl
@[simp] theorem hostSaw_srcLen (s : State) (v : Word) : (s.hostSaw v).srcLen = s.srcLen := rfl
@[simp] theorem hostSaw_scnLen (s : State) (v : Word) : (s.hostSaw v).scnLen = s.scnLen := rfl
@[simp] theorem hostSaw_snkLen (s : State) (v : Word) : (s.hostSaw v).snkLen = s.snkLen := rfl
@[simp] theorem hostSaw_crcAcc (s : State) (v : Word) : (s.hostSaw v).crcAcc = s.crcAcc := rfl
@[simp] theorem hostSaw_crcRes (s : State) (v : Word) : (s.hostSaw v).crcRes = s.crcRes := rfl
@[simp] theorem hostSaw_lastCrc (s : State) (v : Word) : (s.hostSaw v).lastCrc = s.lastCrc := rfl
@[simp] theorem hostSaw_errCmd (s : State) (v : Word) : (s.hostSaw v).errCmd = s.errCmd := rfl
@[simp] theorem hostSaw_err (s : State) (v : Word) : (s.hostSaw v).err = s.err := rfl
@[simp] theorem hostSaw_phase (s : State) (v : Word) : (s.hostSaw v).phase = s.phase := rfl
@[simp] theorem hostSaw_pal (s : State) (v : Word) : (s.hostSaw v).pal = s.pal := rfl
@[simp] theorem hostSaw_header (s : State) (v : Word) : (s.hostSaw v).header = s.header := rfl
@[simp] theorem hostSaw_palette (s : State) (v : Word) : (s.hostSaw v).palette = s.palette := rfl
@[simp] theorem hostSaw_src (s : State) (v : Word) : (s.hostSaw v).src = s.src := rfl
@[simp] theorem hostSaw_scn (s : State) (v : Word) : (s.hostSaw v).scn = s.scn := rfl
@[simp] theorem hostSaw_pay (s : State) (v : Word) : (s.hostSaw v).pay = s.pay := rfl
@[simp] theorem hostSaw_snk (s : State) (v : Word) : (s.hostSaw v).snk = s.snk := rfl
@[simp] theorem hostSaw_inFlight (s : State) (v : Word) : (s.hostSaw v).inFlight = s.inFlight := rfl
@[simp] theorem hostSaw_delays (s : State) (v : Word) : (s.hostSaw v).delays = s.delays := rfl
@[simp] theorem hostSaw_inputs (s : State) (v : Word) : (s.hostSaw v).inputs = s.inputs := rfl
@[simp] theorem hostSaw_lastRead (s : State) (v : Word) : (s.hostSaw v).lastRead = v := rfl

/-! ## setInputs -/

@[simp] theorem setInputs_sizes (s : State) (l : List Input) : (s.setInputs l).sizes = s.sizes := rfl
@[simp] theorem setInputs_arg0 (s : State) (l : List Input) : (s.setInputs l).arg0 = s.arg0 := rfl
@[simp] theorem setInputs_arg1 (s : State) (l : List Input) : (s.setInputs l).arg1 = s.arg1 := rfl
@[simp] theorem setInputs_srcLen (s : State) (l : List Input) : (s.setInputs l).srcLen = s.srcLen := rfl
@[simp] theorem setInputs_scnLen (s : State) (l : List Input) : (s.setInputs l).scnLen = s.scnLen := rfl
@[simp] theorem setInputs_snkLen (s : State) (l : List Input) : (s.setInputs l).snkLen = s.snkLen := rfl
@[simp] theorem setInputs_crcAcc (s : State) (l : List Input) : (s.setInputs l).crcAcc = s.crcAcc := rfl
@[simp] theorem setInputs_crcRes (s : State) (l : List Input) : (s.setInputs l).crcRes = s.crcRes := rfl
@[simp] theorem setInputs_lastCrc (s : State) (l : List Input) : (s.setInputs l).lastCrc = s.lastCrc := rfl
@[simp] theorem setInputs_errCmd (s : State) (l : List Input) : (s.setInputs l).errCmd = s.errCmd := rfl
@[simp] theorem setInputs_err (s : State) (l : List Input) : (s.setInputs l).err = s.err := rfl
@[simp] theorem setInputs_phase (s : State) (l : List Input) : (s.setInputs l).phase = s.phase := rfl
@[simp] theorem setInputs_pal (s : State) (l : List Input) : (s.setInputs l).pal = s.pal := rfl
@[simp] theorem setInputs_header (s : State) (l : List Input) : (s.setInputs l).header = s.header := rfl
@[simp] theorem setInputs_palette (s : State) (l : List Input) : (s.setInputs l).palette = s.palette := rfl
@[simp] theorem setInputs_src (s : State) (l : List Input) : (s.setInputs l).src = s.src := rfl
@[simp] theorem setInputs_scn (s : State) (l : List Input) : (s.setInputs l).scn = s.scn := rfl
@[simp] theorem setInputs_pay (s : State) (l : List Input) : (s.setInputs l).pay = s.pay := rfl
@[simp] theorem setInputs_snk (s : State) (l : List Input) : (s.setInputs l).snk = s.snk := rfl
@[simp] theorem setInputs_inFlight (s : State) (l : List Input) : (s.setInputs l).inFlight = s.inFlight := rfl
@[simp] theorem setInputs_delays (s : State) (l : List Input) : (s.setInputs l).delays = s.delays := rfl
@[simp] theorem setInputs_inputs (s : State) (l : List Input) : (s.setInputs l).inputs = l := rfl
@[simp] theorem setInputs_lastRead (s : State) (l : List Input) : (s.setInputs l).lastRead = s.lastRead := rfl

/-! ## raised -/

@[simp] theorem raised_sizes (s : State) (e : ErrCode) (c : Word) : (s.raised e c).sizes = s.sizes := rfl
@[simp] theorem raised_arg0 (s : State) (e : ErrCode) (c : Word) : (s.raised e c).arg0 = s.arg0 := rfl
@[simp] theorem raised_arg1 (s : State) (e : ErrCode) (c : Word) : (s.raised e c).arg1 = s.arg1 := rfl
@[simp] theorem raised_srcLen (s : State) (e : ErrCode) (c : Word) : (s.raised e c).srcLen = s.srcLen := rfl
@[simp] theorem raised_scnLen (s : State) (e : ErrCode) (c : Word) : (s.raised e c).scnLen = s.scnLen := rfl
@[simp] theorem raised_snkLen (s : State) (e : ErrCode) (c : Word) : (s.raised e c).snkLen = s.snkLen := rfl
@[simp] theorem raised_crcAcc (s : State) (e : ErrCode) (c : Word) : (s.raised e c).crcAcc = s.crcAcc := rfl
@[simp] theorem raised_crcRes (s : State) (e : ErrCode) (c : Word) : (s.raised e c).crcRes = s.crcRes := rfl
@[simp] theorem raised_lastCrc (s : State) (e : ErrCode) (c : Word) : (s.raised e c).lastCrc = s.lastCrc := rfl
@[simp] theorem raised_errCmd (s : State) (e : ErrCode) (c : Word) : (s.raised e c).errCmd = c := rfl
@[simp] theorem raised_err (s : State) (e : ErrCode) (c : Word) : (s.raised e c).err = some e := rfl
@[simp] theorem raised_phase (s : State) (e : ErrCode) (c : Word) : (s.raised e c).phase = s.phase := rfl
@[simp] theorem raised_pal (s : State) (e : ErrCode) (c : Word) : (s.raised e c).pal = s.pal := rfl
@[simp] theorem raised_header (s : State) (e : ErrCode) (c : Word) : (s.raised e c).header = s.header := rfl
@[simp] theorem raised_palette (s : State) (e : ErrCode) (c : Word) : (s.raised e c).palette = s.palette := rfl
@[simp] theorem raised_src (s : State) (e : ErrCode) (c : Word) : (s.raised e c).src = s.src := rfl
@[simp] theorem raised_scn (s : State) (e : ErrCode) (c : Word) : (s.raised e c).scn = s.scn := rfl
@[simp] theorem raised_pay (s : State) (e : ErrCode) (c : Word) : (s.raised e c).pay = s.pay := rfl
@[simp] theorem raised_snk (s : State) (e : ErrCode) (c : Word) : (s.raised e c).snk = s.snk := rfl
@[simp] theorem raised_inFlight (s : State) (e : ErrCode) (c : Word) : (s.raised e c).inFlight = s.inFlight := rfl
@[simp] theorem raised_delays (s : State) (e : ErrCode) (c : Word) : (s.raised e c).delays = s.delays := rfl
@[simp] theorem raised_inputs (s : State) (e : ErrCode) (c : Word) : (s.raised e c).inputs = s.inputs := rfl
@[simp] theorem raised_lastRead (s : State) (e : ErrCode) (c : Word) : (s.raised e c).lastRead = s.lastRead := rfl

/-! ## withCommand -/

@[simp] theorem withCommand_sizes (s : State) (w : Word) : (s.withCommand w).sizes = s.sizes := rfl
@[simp] theorem withCommand_arg0 (s : State) (w : Word) : (s.withCommand w).arg0 = s.arg0 := rfl
@[simp] theorem withCommand_arg1 (s : State) (w : Word) : (s.withCommand w).arg1 = s.arg1 := rfl
@[simp] theorem withCommand_srcLen (s : State) (w : Word) : (s.withCommand w).srcLen = s.srcLen := rfl
@[simp] theorem withCommand_scnLen (s : State) (w : Word) : (s.withCommand w).scnLen = s.scnLen := rfl
@[simp] theorem withCommand_snkLen (s : State) (w : Word) : (s.withCommand w).snkLen = s.snkLen := rfl
@[simp] theorem withCommand_crcAcc (s : State) (w : Word) : (s.withCommand w).crcAcc = s.crcAcc := rfl
@[simp] theorem withCommand_crcRes (s : State) (w : Word) : (s.withCommand w).crcRes = s.crcRes := rfl
@[simp] theorem withCommand_lastCrc (s : State) (w : Word) : (s.withCommand w).lastCrc = s.lastCrc := rfl
@[simp] theorem withCommand_errCmd (s : State) (w : Word) : (s.withCommand w).errCmd = s.errCmd := rfl
@[simp] theorem withCommand_err (s : State) (w : Word) : (s.withCommand w).err = s.err := rfl
@[simp] theorem withCommand_phase (s : State) (w : Word) : (s.withCommand w).phase = s.phase := rfl
@[simp] theorem withCommand_pal (s : State) (w : Word) : (s.withCommand w).pal = s.pal := rfl
@[simp] theorem withCommand_header (s : State) (w : Word) : (s.withCommand w).header = s.header := rfl
@[simp] theorem withCommand_palette (s : State) (w : Word) : (s.withCommand w).palette = s.palette := rfl
@[simp] theorem withCommand_src (s : State) (w : Word) : (s.withCommand w).src = s.src := rfl
@[simp] theorem withCommand_scn (s : State) (w : Word) : (s.withCommand w).scn = s.scn := rfl
@[simp] theorem withCommand_pay (s : State) (w : Word) : (s.withCommand w).pay = s.pay := rfl
@[simp] theorem withCommand_snk (s : State) (w : Word) : (s.withCommand w).snk = s.snk := rfl
@[simp] theorem withCommand_inFlight (s : State) (w : Word) : (s.withCommand w).inFlight = some { word := w, wait := 0 } := rfl
@[simp] theorem withCommand_delays (s : State) (w : Word) : (s.withCommand w).delays = s.delays := rfl
@[simp] theorem withCommand_inputs (s : State) (w : Word) : (s.withCommand w).inputs = s.inputs := rfl
@[simp] theorem withCommand_lastRead (s : State) (w : Word) : (s.withCommand w).lastRead = s.lastRead := rfl

/-! ## committed -/

@[simp] theorem committed_sizes (s : State) : (s.committed).sizes = s.sizes := rfl
@[simp] theorem committed_arg0 (s : State) : (s.committed).arg0 = s.arg0 := rfl
@[simp] theorem committed_arg1 (s : State) : (s.committed).arg1 = s.arg1 := rfl
@[simp] theorem committed_srcLen (s : State) : (s.committed).srcLen = s.srcLen := rfl
@[simp] theorem committed_scnLen (s : State) : (s.committed).scnLen = parsedScnLen s.src := rfl
@[simp] theorem committed_snkLen (s : State) : (s.committed).snkLen = s.snkLen := rfl
@[simp] theorem committed_crcAcc (s : State) : (s.committed).crcAcc = s.crcAcc := rfl
@[simp] theorem committed_crcRes (s : State) : (s.committed).crcRes = s.crcRes := rfl
@[simp] theorem committed_lastCrc (s : State) : (s.committed).lastCrc = s.lastCrc := rfl
@[simp] theorem committed_errCmd (s : State) : (s.committed).errCmd = s.errCmd := rfl
@[simp] theorem committed_err (s : State) : (s.committed).err = s.err := rfl
@[simp] theorem committed_phase (s : State) : (s.committed).phase = .parsed := rfl
@[simp] theorem committed_pal (s : State) : (s.committed).pal = decide (bmpBpp s.src ≤ 8) := rfl
@[simp] theorem committed_header (s : State) : (s.committed).header = parsedHeader s.src := rfl
@[simp] theorem committed_palette (s : State) : (s.committed).palette = parsedPalette s.src := rfl
@[simp] theorem committed_src (s : State) : (s.committed).src = s.src := rfl
@[simp] theorem committed_scn (s : State) : (s.committed).scn = s.scn := rfl
@[simp] theorem committed_pay (s : State) : (s.committed).pay = s.pay := rfl
@[simp] theorem committed_snk (s : State) : (s.committed).snk = s.snk := rfl
@[simp] theorem committed_inFlight (s : State) : (s.committed).inFlight = s.inFlight := rfl
@[simp] theorem committed_delays (s : State) : (s.committed).delays = s.delays := rfl
@[simp] theorem committed_inputs (s : State) : (s.committed).inputs = s.inputs := rfl
@[simp] theorem committed_lastRead (s : State) : (s.committed).lastRead = s.lastRead := rfl

/-! ## cleared -/

@[simp] theorem cleared_sizes (s : State) : (s.cleared).sizes = s.sizes := rfl
@[simp] theorem cleared_arg0 (s : State) : (s.cleared).arg0 = 0#32 := rfl
@[simp] theorem cleared_arg1 (s : State) : (s.cleared).arg1 = 0#32 := rfl
@[simp] theorem cleared_srcLen (s : State) : (s.cleared).srcLen = 0#32 := rfl
@[simp] theorem cleared_scnLen (s : State) : (s.cleared).scnLen = 0#32 := rfl
@[simp] theorem cleared_snkLen (s : State) : (s.cleared).snkLen = 0#32 := rfl
@[simp] theorem cleared_crcAcc (s : State) : (s.cleared).crcAcc = 0xFFFFFFFF#32 := rfl
@[simp] theorem cleared_crcRes (s : State) : (s.cleared).crcRes = 0#32 := rfl
@[simp] theorem cleared_lastCrc (s : State) : (s.cleared).lastCrc = 0#32 := rfl
@[simp] theorem cleared_errCmd (s : State) : (s.cleared).errCmd = 0#32 := rfl
@[simp] theorem cleared_err (s : State) : (s.cleared).err = none := rfl
@[simp] theorem cleared_phase (s : State) : (s.cleared).phase = .idle := rfl
@[simp] theorem cleared_pal (s : State) : (s.cleared).pal = false := rfl
@[simp] theorem cleared_header (s : State) : (s.cleared).header = Header.reset := rfl
@[simp] theorem cleared_palette (s : State) : (s.cleared).palette = Vector.replicate 256 0#32 := rfl
@[simp] theorem cleared_src (s : State) : (s.cleared).src = s.src := rfl
@[simp] theorem cleared_scn (s : State) : (s.cleared).scn = s.scn := rfl
@[simp] theorem cleared_pay (s : State) : (s.cleared).pay = s.pay := rfl
@[simp] theorem cleared_snk (s : State) : (s.cleared).snk = s.snk := rfl
@[simp] theorem cleared_inFlight (s : State) : (s.cleared).inFlight = none := rfl
@[simp] theorem cleared_delays (s : State) : (s.cleared).delays = s.delays := rfl
@[simp] theorem cleared_inputs (s : State) : (s.cleared).inputs = s.inputs := rfl
@[simp] theorem cleared_lastRead (s : State) : (s.cleared).lastRead = s.lastRead := rfl

/-! ## repowered -/

@[simp] theorem repowered_sizes (s : State) (c : Draw) : (s.repowered c).sizes = s.sizes := rfl
@[simp] theorem repowered_arg0 (s : State) (c : Draw) : (s.repowered c).arg0 = 0#32 := rfl
@[simp] theorem repowered_arg1 (s : State) (c : Draw) : (s.repowered c).arg1 = 0#32 := rfl
@[simp] theorem repowered_srcLen (s : State) (c : Draw) : (s.repowered c).srcLen = 0#32 := rfl
@[simp] theorem repowered_scnLen (s : State) (c : Draw) : (s.repowered c).scnLen = 0#32 := rfl
@[simp] theorem repowered_snkLen (s : State) (c : Draw) : (s.repowered c).snkLen = 0#32 := rfl
@[simp] theorem repowered_crcAcc (s : State) (c : Draw) : (s.repowered c).crcAcc = 0xFFFFFFFF#32 := rfl
@[simp] theorem repowered_crcRes (s : State) (c : Draw) : (s.repowered c).crcRes = 0#32 := rfl
@[simp] theorem repowered_lastCrc (s : State) (c : Draw) : (s.repowered c).lastCrc = 0#32 := rfl
@[simp] theorem repowered_errCmd (s : State) (c : Draw) : (s.repowered c).errCmd = 0#32 := rfl
@[simp] theorem repowered_err (s : State) (c : Draw) : (s.repowered c).err = none := rfl
@[simp] theorem repowered_phase (s : State) (c : Draw) : (s.repowered c).phase = .idle := rfl
@[simp] theorem repowered_pal (s : State) (c : Draw) : (s.repowered c).pal = false := rfl
@[simp] theorem repowered_header (s : State) (c : Draw) : (s.repowered c).header = Header.reset := rfl
@[simp] theorem repowered_palette (s : State) (c : Draw) : (s.repowered c).palette = Vector.replicate 256 0#32 := rfl
@[simp] theorem repowered_src (s : State) (c : Draw) : (s.repowered c).src = Memory.ofBytes s.sizes.src c.src := rfl
@[simp] theorem repowered_scn (s : State) (c : Draw) : (s.repowered c).scn = Memory.ofBytes s.sizes.scn c.scn := rfl
@[simp] theorem repowered_pay (s : State) (c : Draw) : (s.repowered c).pay = Memory.ofBytes s.sizes.pay c.pay := rfl
@[simp] theorem repowered_snk (s : State) (c : Draw) : (s.repowered c).snk = Memory.ofBytes s.sizes.snk c.snk := rfl
@[simp] theorem repowered_inFlight (s : State) (c : Draw) : (s.repowered c).inFlight = none := rfl
@[simp] theorem repowered_delays (s : State) (c : Draw) : (s.repowered c).delays = s.delays := rfl
@[simp] theorem repowered_inputs (s : State) (c : Draw) : (s.repowered c).inputs = s.inputs := rfl
@[simp] theorem repowered_lastRead (s : State) (c : Draw) : (s.repowered c).lastRead = s.lastRead := rfl

/-! ## setMem -/

@[simp] theorem setMem_sizes (s : State) (sp : Space) (m : Memory) : (s.setMem sp m).sizes = s.sizes := by cases sp <;> rfl
@[simp] theorem setMem_arg0 (s : State) (sp : Space) (m : Memory) : (s.setMem sp m).arg0 = s.arg0 := by cases sp <;> rfl
@[simp] theorem setMem_arg1 (s : State) (sp : Space) (m : Memory) : (s.setMem sp m).arg1 = s.arg1 := by cases sp <;> rfl
@[simp] theorem setMem_srcLen (s : State) (sp : Space) (m : Memory) : (s.setMem sp m).srcLen = s.srcLen := by cases sp <;> rfl
@[simp] theorem setMem_scnLen (s : State) (sp : Space) (m : Memory) : (s.setMem sp m).scnLen = s.scnLen := by cases sp <;> rfl
@[simp] theorem setMem_snkLen (s : State) (sp : Space) (m : Memory) : (s.setMem sp m).snkLen = s.snkLen := by cases sp <;> rfl
@[simp] theorem setMem_crcAcc (s : State) (sp : Space) (m : Memory) : (s.setMem sp m).crcAcc = s.crcAcc := by cases sp <;> rfl
@[simp] theorem setMem_crcRes (s : State) (sp : Space) (m : Memory) : (s.setMem sp m).crcRes = s.crcRes := by cases sp <;> rfl
@[simp] theorem setMem_lastCrc (s : State) (sp : Space) (m : Memory) : (s.setMem sp m).lastCrc = s.lastCrc := by cases sp <;> rfl
@[simp] theorem setMem_errCmd (s : State) (sp : Space) (m : Memory) : (s.setMem sp m).errCmd = s.errCmd := by cases sp <;> rfl
@[simp] theorem setMem_err (s : State) (sp : Space) (m : Memory) : (s.setMem sp m).err = s.err := by cases sp <;> rfl
@[simp] theorem setMem_phase (s : State) (sp : Space) (m : Memory) : (s.setMem sp m).phase = s.phase := by cases sp <;> rfl
@[simp] theorem setMem_pal (s : State) (sp : Space) (m : Memory) : (s.setMem sp m).pal = s.pal := by cases sp <;> rfl
@[simp] theorem setMem_header (s : State) (sp : Space) (m : Memory) : (s.setMem sp m).header = s.header := by cases sp <;> rfl
@[simp] theorem setMem_palette (s : State) (sp : Space) (m : Memory) : (s.setMem sp m).palette = s.palette := by cases sp <;> rfl
@[simp] theorem setMem_inFlight (s : State) (sp : Space) (m : Memory) : (s.setMem sp m).inFlight = s.inFlight := by cases sp <;> rfl
@[simp] theorem setMem_delays (s : State) (sp : Space) (m : Memory) : (s.setMem sp m).delays = s.delays := by cases sp <;> rfl
@[simp] theorem setMem_inputs (s : State) (sp : Space) (m : Memory) : (s.setMem sp m).inputs = s.inputs := by cases sp <;> rfl
@[simp] theorem setMem_lastRead (s : State) (sp : Space) (m : Memory) : (s.setMem sp m).lastRead = s.lastRead := by cases sp <;> rfl

@[simp] theorem setMem_mem_self (s : State) (sp : Space) (m : Memory) : (s.setMem sp m).mem sp = m := by cases sp <;> rfl

theorem setMem_mem_other (s : State) {sp sp' : Space} (m : Memory) (h : sp' ≠ sp) :
    (s.setMem sp m).mem sp' = s.mem sp' := by
  cases sp <;> cases sp' <;> first | rfl | exact absurd rfl h

/-! ## The spaces -/

@[simp] theorem mem_src (s : State) : s.mem .src = s.src := rfl
@[simp] theorem mem_scn (s : State) : s.mem .scn = s.scn := rfl
@[simp] theorem mem_pay (s : State) : s.mem .pay = s.pay := rfl
@[simp] theorem mem_snk (s : State) : s.mem .snk = s.snk := rfl

@[simp] theorem sizes_of_src (z : Sizes) : z.of .src = z.src := rfl
@[simp] theorem sizes_of_scn (z : Sizes) : z.of .scn = z.scn := rfl
@[simp] theorem sizes_of_pay (z : Sizes) : z.of .pay = z.pay := rfl
@[simp] theorem sizes_of_snk (z : Sizes) : z.of .snk = z.snk := rfl

end Sys2Proof.Laws
end

