-- ==== Sys2Proof/Laws/Ops.lean ====
section
/-! SUPPORT. For each shared operation of the engine, what it can do, said once. -/

namespace Sys2Proof.Laws

open Sys2Proof.Machine

/-! ## The size parameters -/

/-- Legal sizes are between 1 and 2^28 (R10 of 00_scope.md). -/
theorem sizes_bounds {z : Sizes} (h : z.wellFormed = true) (sp : Space) : 1 ≤ z.of sp ∧ z.of sp ≤ 268435456 := by
  unfold Sizes.wellFormed Sizes.legal Config.maxSize at h
  simp only [Bool.and_eq_true, decide_eq_true_eq] at h
  cases sp <;> simp <;> omega

/-! ## Values that fit a register -/

/-- A number below 2^32 survives being stored in a register. -/
theorem toReg_toNat {n : Nat} (h : n < 2 ^ 32) : (toReg n).toNat = n := by
  unfold toReg
  rw [BitVec.toNat_ofNat]
  exact Nat.mod_eq_of_lt h

/-- A little-endian 16-bit field is below 2^16. -/
theorem le16_lt (m : Memory) (a : Nat) : le16 m a < 2 ^ 16 := by
  unfold le16
  have h0 := (Memory.read m a).isLt
  have h1 := (Memory.read m (a + 1)).isLt
  omega

/-- A little-endian 32-bit field is below 2^32. -/
theorem le32_lt (m : Memory) (a : Nat) : le32 m a < 2 ^ 32 := by
  unfold le32
  have h0 := (Memory.read m a).isLt
  have h1 := (Memory.read m (a + 1)).isLt
  have h2 := (Memory.read m (a + 2)).isLt
  have h3 := (Memory.read m (a + 3)).isLt
  omega

/-! ## Reading and writing a space -/

theorem memRead_eq_some {sp : Space} {a n : Nat} {s : State} {bs : List Byte} :
    memRead sp a n s = some bs ↔ a + n ≤ s.sizes.of sp ∧ bs = Memory.readBytes (s.mem sp) a n := by
  unfold memRead
  split_ifs with h
  · simp [h, eq_comm]
  · simp [h]

theorem memRead_eq_none {sp : Space} {a n : Nat} {s : State} :
    memRead sp a n s = none ↔ s.sizes.of sp < a + n := by
  unfold memRead
  split_ifs with h <;> simp <;> omega

theorem memWrite_eq_some {sp : Space} {a : Nat} {bs : List Byte} {s t : State} :
    memWrite sp a bs s = some t ↔
      a + bs.length ≤ s.sizes.of sp ∧ t = s.setMem sp (Memory.writeBytes (s.mem sp) a bs) := by
  unfold memWrite
  split_ifs with h
  · simp [h, eq_comm]
  · simp [h]

/-! ## The palette file after PARSE -/

/-- Entry `k` of the palette file after PARSE (R28 of 10_state.md, R72 of 41_bmp_decoder.md). -/
theorem parsedPalette_get (m : Memory) (k : Fin 256) :
    (parsedPalette m)[k.val] =
      if k.val < bmpPalEntries m then paletteEntry m (bmpPalStart m + 4 * k.val) else 0#32 := by
  simp [parsedPalette]

/-- The top byte of a palette entry is zero (R28). -/
theorem paletteEntry_top (m : Memory) (p : Nat) : (paletteEntry m p).extractLsb' 24 8 = 0#8 := by
  apply BitVec.eq_of_getLsbD_eq
  intro k hk
  unfold paletteEntry
  interval_cases k <;> (simp only [BitVec.getLsbD_extractLsb', BitVec.getLsbD_append]; simp)

/-! ## The error entry -/

theorem raise_eq (e : ErrCode) (c : Word) (s : State) : raise e c s = .next { s with err := some e, errCmd := c } := rfl

/-! ## The sink -/

theorem emit_eq_some {bs : List Byte} {s t : State} :
    emit bs s = some t ↔ s.snkLen.toNat + bs.length ≤ s.sizes.snk ∧
      t = { s with snk := Memory.writeBytes s.snk s.snkLen.toNat bs,
                   snkLen := toReg (s.snkLen.toNat + bs.length) } := by
  unfold emit
  split_ifs with h
  · simp; omega
  · simp [Nat.le_of_not_lt h, eq_comm]

theorem emit_eq_none {bs : List Byte} {s : State} :
    emit bs s = none ↔ s.sizes.snk < s.snkLen.toNat + bs.length := by
  unfold emit
  split_ifs with h <;> simp [h]

/-- A framed chunk that goes out: the stream grows by its bytes, LAST_CRC and PHASE are set, nothing else changes. -/
theorem emitChunk_fits {bs : List Byte} {crc cmd : Word} {p : Phase} {s : State}
    (h : s.snkLen.toNat + bs.length ≤ s.sizes.snk) :
    emitChunk bs crc p cmd s = .next { s with
      snk := Memory.writeBytes s.snk s.snkLen.toNat bs, snkLen := toReg (s.snkLen.toNat + bs.length),
      lastCrc := crc, phase := p } := by
  unfold emitChunk
  rw [emit_eq_some.mpr ⟨h, rfl⟩]
  rfl

/-- A chunk the sink refuses: IOError, nothing written. -/
theorem emitChunk_refused {bs : List Byte} {crc cmd : Word} {p : Phase} {s : State}
    (h : s.sizes.snk < s.snkLen.toNat + bs.length) :
    emitChunk bs crc p cmd s = .next { s with err := some .ioError, errCmd := cmd } := by
  unfold emitChunk
  rw [emit_eq_none.mpr h]
  rfl

/-- Everything `emitChunk` can do. -/
theorem emitChunk_cases {bs : List Byte} {crc cmd : Word} {p : Phase} {s t : State}
    (h : emitChunk bs crc p cmd s = .next t) :
    (s.snkLen.toNat + bs.length ≤ s.sizes.snk ∧
      t = { s with snk := Memory.writeBytes s.snk s.snkLen.toNat bs,
                   snkLen := toReg (s.snkLen.toNat + bs.length), lastCrc := crc, phase := p }) ∨
    (s.sizes.snk < s.snkLen.toNat + bs.length ∧ t = { s with err := some .ioError, errCmd := cmd }) := by
  rcases Nat.lt_or_ge s.sizes.snk (s.snkLen.toNat + bs.length) with hlt | hge
  · rw [emitChunk_refused hlt] at h
    injection h with h
    exact .inr ⟨hlt, h.symm⟩
  · rw [emitChunk_fits hge] at h
    injection h with h
    exact .inl ⟨hge, h.symm⟩

/-! ## Framing -/

@[simp] theorem be32_length (v : Word) : (be32 v).length = 4 := rfl

@[simp] theorem frame_length (ty data : List Byte) : (frame ty data).length = 8 + ty.length + data.length := by
  simp [frame]; omega

@[simp] theorem rgbEntry_length (v : Word) : (rgbEntry v).length = 3 := rfl

theorem flatMap_rgbEntry_length (l : List Word) : (l.flatMap rgbEntry).length = 3 * l.length := by
  induction l with
  | nil => rfl
  | cons v l ih => simp only [List.flatMap_cons, List.length_append, rgbEntry_length, ih, List.length_cons]; omega

@[simp] theorem ihdrBody_length (h : Header) : (ihdrBody h).length = 13 := rfl

theorem iendChunk_eq_frame : iendChunk = frame typeIEND [] := by decide +kernel

/-! ## The transcoder -/

theorem writeRow_eq_some {i : Nat} {s t : State} :
    writeRow i s = some t ↔ ∃ line, scanline s i = some line ∧
      i * s.lineBytes + line.length ≤ s.sizes.scn ∧
      t = { s with scn := Memory.writeBytes s.scn (i * s.lineBytes) line } := by
  unfold writeRow
  cases scanline s i with
  | none => simp
  | some line =>
    simp only [Option.some.injEq, exists_eq_left']
    exact memWrite_eq_some

/-- The scanline reads SRC and the header registers only. -/
theorem scanline_scn (s : State) (m : Memory) (i : Nat) : scanline { s with scn := m } i = scanline s i := rfl

/-- Writing rows changes SCN only. -/
theorem writeRows_frame {l : List Nat} {s t : State} (h : writeRows l s = some t) : t = { s with scn := t.scn } := by
  induction l generalizing s with
  | nil =>
    simp only [writeRows, Option.some.injEq] at h
    subst h
    rfl
  | cons i l ih =>
    simp only [writeRows] at h
    cases hr : writeRow i s with
    | none => rw [hr] at h; cases h
    | some u =>
      rw [hr] at h
      obtain ⟨line, -, -, hu⟩ := writeRow_eq_some.mp hr
      have := ih h
      rw [hu] at this
      exact this

/-- Writing rows keeps SCN canonical and inside its space. -/
theorem writeRows_scn_ok {l : List Nat} {s t : State} (h : writeRows l s = some t)
    (hw : Memory.wf s.scn = true ∧ Memory.within s.sizes.scn s.scn = true) :
    Memory.wf t.scn = true ∧ Memory.within s.sizes.scn t.scn = true := by
  induction l generalizing s with
  | nil =>
    simp only [writeRows, Option.some.injEq] at h
    subst h
    exact hw
  | cons i l ih =>
    simp only [writeRows] at h
    cases hr : writeRow i s with
    | none => rw [hr] at h; cases h
    | some u =>
      rw [hr] at h
      obtain ⟨line, -, hfit, hu⟩ := writeRow_eq_some.mp hr
      subst hu
      exact ih (s := { s with scn := Memory.writeBytes s.scn (i * s.lineBytes) line }) h
        ⟨writeBytes_wf hw.1 _ _, writeBytes_within hw.2 hfit⟩

/-- Everything a transcode command can do once its checks have passed. -/
theorem transcoded_next {r : Option State} {t : State} (h : transcoded r = .next t) : r = some t := by
  cases r with
  | none => cases h
  | some u =>
    simp only [transcoded] at h
    injection h with h
    rw [h]

end Sys2Proof.Laws
end

