-- ==== Sys2Proof/Laws/Bus.lean ====
section
/-! SUPPORT. The host's side and the step: where an address goes, and everything one step can do. -/

namespace Sys2Proof.Laws

open Sys2Proof.Machine

/-! ## The address map -/

theorem busTarget_reg {a : Nat} (h : a < 0x1000) : busTarget a = some (.reg a) := by
  unfold busTarget
  rw [if_pos h]

theorem inWindow_iff (a : Nat) (sp : Space) :
    inWindow a sp = true ↔ windowBase sp ≤ a ∧ a < windowBase sp + 0x10000000 := by
  unfold inWindow
  rw [Bool.and_eq_true, decide_eq_true_iff, decide_eq_true_iff]
  rfl

theorem inWindow_offset {a : Nat} (sp sp' : Space) (h : a < 0x10000000) :
    inWindow (windowBase sp + a) sp' = decide (sp' = sp) := by
  rw [Bool.eq_iff_iff, inWindow_iff, decide_eq_true_iff]
  cases sp <;> cases sp' <;> simp only [windowBase, reduceCtorEq, iff_true, iff_false] <;> omega

/-- An address inside a window reaches that space at its offset (R35). -/
theorem busTarget_window {a : Nat} {sp : Space} (h : a < 0x10000000) :
    busTarget (windowBase sp + a) = some (.mem sp a) := by
  have h0 : ¬ windowBase sp + a < 0x1000 := by cases sp <;> simp only [windowBase] <;> omega
  unfold busTarget
  simp only [inWindow_offset sp _ h, if_neg h0]
  cases sp <;> simp

/-- A memory target comes from an address of its window. -/
theorem busTarget_eq_mem {a off : Nat} {sp : Space} (h : busTarget a = some (.mem sp off)) :
    a = windowBase sp + off ∧ off < 0x10000000 := by
  unfold busTarget at h
  split_ifs at h with h0 h1 h2 h3 h4 <;>
    simp only [Option.some.injEq, Target.mem.injEq, reduceCtorEq] at h
  all_goals obtain ⟨rfl, rfl⟩ := h
  · have := (inWindow_iff _ _).mp h1; omega
  · have := (inWindow_iff _ _).mp h2; omega
  · have := (inWindow_iff _ _).mp h3; omega
  · have := (inWindow_iff _ _).mp h4; omega

theorem busTarget_eq_reg {a off : Nat} (h : busTarget a = some (.reg off)) : off = a ∧ a < 0x1000 := by
  unfold busTarget at h
  split_ifs at h with h0
  all_goals simp only [Option.some.injEq, Target.reg.injEq, reduceCtorEq] at h
  exact ⟨h.symm, h0⟩

theorem hostAddr_toNat {z : Sizes} (hz : z.wellFormed = true) {sp : Space} {a : Nat} (ha : a < z.of sp) :
    (BitVec.ofNat 32 (windowBase sp + a)).toNat = windowBase sp + a := by
  have := (sizes_bounds hz sp).2
  rw [BitVec.toNat_ofNat]
  apply Nat.mod_eq_of_lt
  cases sp <;> simp only [windowBase] <;> omega

/-- The accesses to a memory window that are no bus error (R36). -/
theorem targetFault_mem_eq_none {width : Width} {z : Sizes} {sp : Space} {off : Nat} :
    targetFault width z (.mem sp off) = none ↔
      width ≠ .b16 ∧ (width = .b32 → off % 4 = 0) ∧ off + width.bytes ≤ z.of sp := by
  rcases Nat.lt_or_ge (z.of sp) (off + width.bytes) with h | h
  · cases width <;> simp [targetFault, h, Nat.not_le_of_lt h]
    split_ifs <;> simp
  · cases width <;> simp [targetFault, h, Nat.not_lt_of_le h]

/-- A host access to bytes that exist, of a width memory takes, reaches the space (R35, R36). -/
theorem busAccess_mem {z : Sizes} (hz : z.wellFormed = true) {sp : Space} {a : Nat} {width : Width}
    (hw : width = .b8 ∨ (width = .b32 ∧ a % 4 = 0)) (ha : a + width.bytes ≤ z.of sp) :
    busAccess width (BitVec.ofNat 32 (windowBase sp + a)) z = .ok (.mem sp a) := by
  have hs := (sizes_bounds hz sp).2
  have hb : 1 ≤ width.bytes := by cases width <;> simp [Width.bytes]
  unfold busAccess
  rw [hostAddr_toNat hz (by omega), busTarget_window (by omega)]
  have : targetFault width z (.mem sp a) = none := by
    rw [targetFault_mem_eq_none]
    rcases hw with rfl | ⟨rfl, h4⟩ <;> simp <;> omega
  simp only [this]

/-- A 32-bit host access to an aligned offset of the register window reaches it (R35, R36). -/
theorem busAccess_reg {z : Sizes} {off : Nat} (h4 : off % 4 = 0) (hlt : off < 0x1000) :
    busAccess .b32 (BitVec.ofNat 32 off) z = .ok (.reg off) := by
  have hn : (BitVec.ofNat 32 off).toNat = off := by rw [BitVec.toNat_ofNat]; omega
  unfold busAccess
  rw [hn, busTarget_reg hlt]
  simp [targetFault, h4]

/-- The numbers of R35 are the window bases of the map. -/
theorem mem_spaceWindows {sp : Space} {base : Nat} : (sp, base) ∈ spaceWindows ↔ base = windowBase sp := by
  cases sp <;> simp [spaceWindows, windowBase]

/-- An address of a space that no window reaches is a host bus error (R35; log 25). -/
theorem busAccess_past {z : Sizes} {sp : Space} {a : Nat} (width : Width) (ha : windowBytes ≤ a) :
    busAccess width (spaceAddr sp a) z = .error .busNoTarget := by
  unfold spaceAddr
  rw [if_neg (Nat.not_lt_of_le ha)]
  rfl

/-! ## The register map -/

theorem regAt_offset (r : Reg) : regAt r.offset = some r := by
  cases r with
  | palette k =>
    have hk := k.isLt
    unfold regAt
    rw [if_pos (by simp only [Reg.offset]; omega)]
    congr 2
    apply Fin.ext
    simp only [Reg.offset, Fin.ofNat]
    omega
  | _ => decide

theorem offset_aligned (r : Reg) : r.offset % 4 = 0 ∧ r.offset < 0x1000 := by
  cases r with
  | palette k => have hk := k.isLt; simp only [Reg.offset]; omega
  | _ => decide

theorem regRead_setInputs (off : Nat) (l : List Input) (s : State) : regRead off (s.setInputs l) = regRead off s := by
  unfold regRead
  cases regAt off with
  | none => rfl
  | some r => cases r <;> rfl

theorem targetRead_setInputs (width : Width) (l : List Input) (s : State) (tg : Target) :
    targetRead width (s.setInputs l) tg = targetRead width s tg := by
  cases tg with
  | reg off => exact regRead_setInputs off l s
  | mem sp off => cases sp <;> rfl

/-! ## One step -/

/-- A run whose first step answers a next state goes on from there. -/
theorem run_next {M : Host.Core} {s t : M.State} (k : Nat) (h : M.step s = .next t) : M.run (k + 1) s = M.run k t := by
  simp only [Host.Core.run, h]

/-- With no command in flight, a step is the host's next input. -/
theorem step_of_idle {s : State} {i : Input} {rest : List Input} (h : s.inFlight = none) (hi : s.inputs = i :: rest) :
    step s = hostInput i rest s := by
  simp [step, turn, h, hostMove, hi]

/-- A host read that is no bus error, with BUSY = 0: only what the host saw changes. -/
theorem step_host_read {s : State} {width : Width} {addr : Word} {rest : List Input} {tg : Target}
    (h : s.inFlight = none) (hi : s.inputs = .read width addr :: rest)
    (ht : busAccess width addr s.sizes = .ok tg) :
    step s = .next { s with inputs := rest, lastRead := targetRead width s tg } := by
  have hb : (s.setInputs rest).busy = false := by simp [State.busy, h]
  have ht' : busAccess width addr (s.setInputs rest).sizes = .ok tg := ht
  rw [step_of_idle h hi]
  simp only [hostInput, hostRead, hb, ht', targetRead_setInputs]
  rfl

/-- Everything a host write to an address with a target can do, with BUSY = 0: it reaches a target that takes writes,
or it is a bus error. -/
theorem step_host_write {s : State} {width : Width} {addr v : Word} {rest : List Input} {tg : Target}
    (h : s.inFlight = none) (hi : s.inputs = .write width addr v :: rest)
    (ht : busAccess width addr s.sizes = .ok tg) :
    step s = if tg.takesWrites then .next (targetWrite width v { s with inputs := rest } tg)
      else .fault .busReadOnly := by
  have hb : (s.setInputs rest).busy = false := by simp [State.busy, h]
  have ht' : busAccess width addr (s.setInputs rest).sizes = .ok tg := ht
  rw [step_of_idle h hi]
  simp only [hostInput, hostWrite, hb, ht']
  rfl

/-- A host access that is a bus error, with BUSY = 0, is a fault of the step. -/
theorem step_host_fault {s : State} {width : Width} {addr v : Word} {rest : List Input} {f : Fault}
    (h : s.inFlight = none) (hi : s.inputs = .read width addr :: rest ∨ s.inputs = .write width addr v :: rest)
    (ht : busAccess width addr s.sizes = .error f) : step s = .fault f := by
  have hb : (s.setInputs rest).busy = false := by simp [State.busy, h]
  have ht' : busAccess width addr (s.setInputs rest).sizes = .error f := ht
  rcases hi with hi | hi
  · rw [step_of_idle h hi]
    simp only [hostInput, hostRead, hb, ht']
    rfl
  · rw [step_of_idle h hi]
    simp only [hostInput, hostWrite, hb, ht']
    rfl

/-- With a command in flight that is due, a step is the engine's. -/
theorem step_of_due {s : State} {f : InFlight} (h : s.inFlight = some f) (hw : f.wait = 0) :
    step s = engineStep f.word s := by
  simp [step, turn, h, hw]

/-- With a command in flight that waits, a step is the host's move, the wait one less. -/
theorem step_of_waiting {s : State} {w : Word} {n : Nat} (h : s.inFlight = some { word := w, wait := n + 1 }) :
    step s = hostMove { s with inFlight := some { word := w, wait := n } } := by
  simp [step, turn, h]

/-- Everything a taken command can do when it is performed. -/
theorem engineStep_cases (w : Word) (s : State) :
    (∃ i, decode w = .instr i ∧ engineStep w s = exec i s.retire) ∨
    (∃ why, decode w = .illegal why ∧ engineStep w s = .next (s.retire.raised .illegalCommand w)) := by
  unfold engineStep
  cases decode w with
  | instr i => exact .inl ⟨i, rfl, rfl⟩
  | illegal why => exact .inr ⟨why, rfl, rfl⟩

/-- Everything one step can do: the engine performs the command in flight, or the host moves in a state that differs
at most in the wait. -/
theorem step_cases (s : State) :
    (∃ f, s.inFlight = some f ∧ f.wait = 0 ∧ step s = engineStep f.word s) ∨
    (∃ o : Option InFlight, (o = none ↔ s.inFlight = none) ∧
      (∀ f, o = some f → ∃ g, s.inFlight = some g ∧ g.word = f.word) ∧
      step s = hostMove { s with inFlight := o }) := by
  cases h : s.inFlight with
  | none =>
    have hs : step s = hostMove s := by simp only [step, turn, h]
    have he : ({ s with inFlight := none } : State) = s := by rw [← h]
    exact .inr ⟨none, by simp, by simp, by rw [hs, he]⟩
  | some f =>
    obtain ⟨w, n⟩ := f
    cases n with
    | zero => exact .inl ⟨_, rfl, rfl, step_of_due h rfl⟩
    | succ n => exact .inr ⟨some ⟨w, n⟩, by simp, by simp, step_of_waiting h⟩

/-- What a host write to a register can do: nothing, one operand register, or a command taken. -/
theorem regWrite_cases (off : Nat) (v : Word) (s : State) :
    regWrite off v s = s ∨ regWrite off v s = { s with arg0 := v } ∨ regWrite off v s = { s with arg1 := v } ∨
    regWrite off v s = { s with srcLen := v } ∨
    (s.drops v = false ∧ regWrite off v s =
      { s with inFlight := some { word := v, wait := s.delays.headD 0 }, delays := s.delays.tail }) := by
  unfold regWrite
  cases regAt off with
  | none => exact .inl rfl
  | some r =>
    cases r with
    | cmd =>
      simp only [Reg.write, State.writeCmd]
      cases hd : s.drops v with
      | true => exact .inl (by simp)
      | false => exact .inr (.inr (.inr (.inr ⟨rfl, by simp⟩)))
    | arg0 => exact .inr (.inl rfl)
    | arg1 => exact .inr (.inr (.inl rfl))
    | srcLen => exact .inr (.inr (.inr (.inl rfl)))
    | _ => exact .inl rfl

/-- Everything a host move can do when it answers a next state. -/
theorem hostMove_cases {s t : State} (h : hostMove s = .next t) :
    (∃ l v, t = { s with inputs := l, lastRead := v }) ∨
    (∃ c rest, s.inputs = .powerOn c :: rest ∧ t = (s.setInputs rest).repowered c) ∨
    (s.inFlight = none ∧ ∃ l off v, t = regWrite off v { s with inputs := l }) ∨
    (∃ l sp a width v, hostWritable sp = true ∧ a + (writtenBytes width v).length ≤ s.sizes.of sp ∧
      t = State.setMem { s with inputs := l } sp (Memory.writeBytes (s.mem sp) a (writtenBytes width v))) := by
  unfold hostMove at h
  split at h
  · injection h with h
    exact .inl ⟨s.inputs, s.lastRead, h.symm⟩
  · rename_i i rest hi
    cases i with
    | read width addr =>
      simp only [hostInput, hostRead] at h
      split_ifs at h
      split at h
      · cases h
      · injection h with h
        exact .inl ⟨rest, _, h.symm⟩
    | write width addr data =>
      simp only [hostInput, hostWrite] at h
      split_ifs at h with hb
      split at h
      · cases h
      · rename_i tg htg
        split_ifs at h with hwr
        injection h with h
        cases tg with
        | reg off =>
          refine .inr (.inr (.inl ⟨?_, rest, off, data, h.symm⟩))
          simpa [State.busy] using hb
        | mem sp off =>
          refine .inr (.inr (.inr ⟨rest, sp, off, width, data, hwr, ?_, h.symm⟩))
          unfold busAccess at htg
          split at htg
          · cases htg
          · rename_i t' ht'
            split at htg
            · cases htg
            · rename_i hf
              injection htg with htg
              subst htg
              have h3 := targetFault_mem_eq_none.mp hf
              cases width with
              | b8 => simpa [writtenBytes, Width.bytes] using h3.2.2
              | b16 => exact absurd rfl h3.1
              | b32 => simpa [writtenBytes, hostBytes, Width.bytes] using h3.2.2
    | poll =>
      simp only [hostInput] at h
      injection h with h
      split_ifs at h
      · exact .inl ⟨s.inputs, _, h.symm⟩
      · exact .inl ⟨rest, _, h.symm⟩
    | ifPal w =>
      simp only [hostInput] at h
      injection h with h
      exact .inl ⟨_, _, h.symm⟩
    | powerOn c =>
      simp only [hostInput] at h
      injection h with h
      exact .inr (.inl ⟨c, rest, hi, h.symm⟩)

end Sys2Proof.Laws
end

