-- ==== Sys2Proof/Laws/Exec.lean ====
section
/-! SUPPORT. For each command that can raise an error, everything it can do when it answers a next state. -/

namespace Sys2Proof.Laws

open Sys2Proof.Machine

theorem raise_next {e : ErrCode} {c : Word} {s t : State} (h : raise e c s = .next t) : t = s.raised e c := by
  unfold raise at h
  injection h with h
  exact h.symm

theorem next_inj {s t : State} (h : (.next s : Host.Outcome State Fault Refusal) = .next t) : t = s := by
  injection h with h
  exact h.symm

theorem execCrcupd_cases {sp : Space} {s t : State} (h : execCrcupd sp s = .next t) :
    (∃ e, t = s.raised e (encode (.crcupd sp))) ∨
    (s.arg0.toNat + s.arg1.toNat ≤ s.sizes.of sp ∧
      t = s.setCrcAcc (crcAccum s.crcAcc (Memory.readBytes (s.mem sp) s.arg0.toNat s.arg1.toNat))) := by
  unfold execCrcupd at h
  split at h
  · exact .inl ⟨_, raise_next h⟩
  · rename_i bs hbs
    obtain ⟨hfit, rfl⟩ := memRead_eq_some.mp hbs
    exact .inr ⟨hfit, next_inj h⟩

theorem execParse_cases {s t : State} (h : execParse s = .next t) :
    (∃ e, t = s.raised e (encode .parse)) ∨
    (s.phase = .idle ∧ parseError s.sizes.src s.srcLen.toNat s.src = none ∧ t = s.committed) := by
  unfold execParse at h
  split_ifs at h with hp
  · exact .inl ⟨_, raise_next h⟩
  · split at h
    · exact .inl ⟨_, raise_next h⟩
    · rename_i hn
      exact .inr ⟨Decidable.not_not.mp hp, hn, next_inj h⟩

theorem execXrow_cases {s t : State} (h : execXrow s = .next t) :
    (∃ e, t = s.raised e (encode .xrow)) ∨
    (s.phase ≠ .idle ∧ s.arg0.toNat < s.imgHeight ∧ writeRow s.arg0.toNat s = some t) := by
  unfold execXrow at h
  split_ifs at h with h1 h2 h3
  · exact .inl ⟨_, raise_next h⟩
  · exact .inl ⟨_, raise_next h⟩
  · exact .inl ⟨_, raise_next h⟩
  · exact .inr ⟨h1, Nat.lt_of_not_le h2, transcoded_next h⟩

theorem execXall_cases {s t : State} (h : execXall s = .next t) :
    (∃ e, t = s.raised e (encode .xall)) ∨
    (s.phase ≠ .idle ∧ s.scnLen.toNat ≤ s.sizes.scn ∧ writeRows (List.range s.imgHeight) s = some t) := by
  unfold execXall at h
  split_ifs at h with h1 h2
  · exact .inl ⟨_, raise_next h⟩
  · exact .inl ⟨_, raise_next h⟩
  · exact .inr ⟨h1, Nat.le_of_not_lt h2, transcoded_next h⟩

theorem execPngsig_cases {s t : State} (h : execPngsig s = .next t) :
    (∃ e, t = s.raised e (encode .pngsig)) ∨
    (s.phase = .parsed ∧ s.snkLen.toNat + 8 ≤ s.sizes.snk ∧
      t = { s with snk := Memory.writeBytes s.snk s.snkLen.toNat pngSignature,
                   snkLen := toReg (s.snkLen.toNat + 8), phase := .sig }) := by
  unfold execPngsig at h
  split_ifs at h with hp
  · exact .inl ⟨_, raise_next h⟩
  · split at h
    · rename_i u hu
      obtain ⟨hfit, rfl⟩ := emit_eq_some.mp hu
      exact .inr ⟨Decidable.not_not.mp hp, hfit, next_inj h⟩
    · exact .inl ⟨_, raise_next h⟩

theorem execIhdr_cases {s t : State} (h : execIhdr s = .next t) :
    (∃ e, t = s.raised e (encode .ihdr)) ∨
    (s.phase = .sig ∧ s.snkLen.toNat + 25 ≤ s.sizes.snk ∧
      t = { s with snk := Memory.writeBytes s.snk s.snkLen.toNat (frame typeIHDR (ihdrBody s.header)),
                   snkLen := toReg (s.snkLen.toNat + 25), lastCrc := chunkCrc typeIHDR (ihdrBody s.header),
                   phase := .hdr }) := by
  unfold execIhdr at h
  split_ifs at h with hp hz
  · exact .inl ⟨_, raise_next h⟩
  · exact .inl ⟨_, raise_next h⟩
  · rcases emitChunk_cases h with ⟨hfit, ht⟩ | ⟨-, ht⟩
    · exact .inr ⟨Decidable.not_not.mp hp, by simpa [typeIHDR] using hfit, by simpa [typeIHDR] using ht⟩
    · exact .inl ⟨_, ht⟩

theorem plteBody_eq_some {s : State} {body : List Byte} (h : plteBody s = some body) :
    s.header.palEntries.toNat ≤ 256 ∧ body = paletteBody s ∧ body.length = 3 * s.header.palEntries.toNat := by
  unfold plteBody at h
  split_ifs at h with hn
  injection h with h
  refine ⟨hn, h.symm, ?_⟩
  rw [← h, flatMap_rgbEntry_length, List.length_take]
  simp only [Vector.length_toList]
  omega

theorem execPlte_cases {s t : State} (h : execPlte s = .next t) :
    (∃ e, t = s.raised e (encode .plte)) ∨
    (s.phase = .hdr ∧ s.pal = true ∧ s.header.palEntries.toNat ≤ 256 ∧
      s.snkLen.toNat + (frame typePLTE (paletteBody s)).length ≤ s.sizes.snk ∧
      t = { s with snk := Memory.writeBytes s.snk s.snkLen.toNat (frame typePLTE (paletteBody s)),
                   snkLen := toReg (s.snkLen.toNat + (frame typePLTE (paletteBody s)).length),
                   lastCrc := chunkCrc typePLTE (paletteBody s), phase := .plt }) := by
  unfold execPlte at h
  split_ifs at h with hp
  · exact .inl ⟨_, raise_next h⟩
  · split at h
    · cases h
    · rename_i body hb
      obtain ⟨hn, rfl, -⟩ := plteBody_eq_some hb
      simp only [State.plteLegal, Bool.not_eq_false, Bool.and_eq_true, decide_eq_true_eq] at hp
      split_ifs at h
      · exact .inl ⟨_, raise_next h⟩
      · rcases emitChunk_cases h with ⟨hfit, ht⟩ | ⟨-, ht⟩
        · exact .inr ⟨hp.1, hp.2, hn, hfit, ht⟩
        · exact .inl ⟨_, ht⟩

theorem idatLegal_iff (s : State) : s.idatLegal = true ↔ (s.phase = .hdr ∧ s.pal = false) ∨ s.phase = .plt := by
  simp [State.idatLegal]

theorem execIdat_cases {s t : State} (h : execIdat s = .next t) :
    (∃ e, t = s.raised e (encode .idat)) ∨
    (((s.phase = .hdr ∧ s.pal = false) ∨ s.phase = .plt) ∧ s.arg0.toNat + s.arg1.toNat ≤ s.sizes.pay ∧
      ∃ body, body = Memory.readBytes s.pay s.arg0.toNat s.arg1.toNat ∧
        s.snkLen.toNat + (frame typeIDAT body).length ≤ s.sizes.snk ∧
        t = { s with snk := Memory.writeBytes s.snk s.snkLen.toNat (frame typeIDAT body),
                     snkLen := toReg (s.snkLen.toNat + (frame typeIDAT body).length),
                     lastCrc := chunkCrc typeIDAT body, phase := .dat }) := by
  unfold execIdat at h
  split_ifs at h with hp
  · exact .inl ⟨_, raise_next h⟩
  · split at h
    · exact .inl ⟨_, raise_next h⟩
    · rename_i body hb
      obtain ⟨hr, rfl⟩ := memRead_eq_some.mp hb
      rw [Bool.not_eq_false, idatLegal_iff] at hp
      rcases emitChunk_cases h with ⟨hfit, ht⟩ | ⟨-, ht⟩
      · exact .inr ⟨hp, hr, _, rfl, hfit, ht⟩
      · exact .inl ⟨_, ht⟩

theorem execIend_cases {s t : State} (h : execIend s = .next t) :
    (∃ e, t = s.raised e (encode .iend)) ∨
    (s.phase = .dat ∧ s.snkLen.toNat + 12 ≤ s.sizes.snk ∧
      t = { s with snk := Memory.writeBytes s.snk s.snkLen.toNat iendChunk,
                   snkLen := toReg (s.snkLen.toNat + 12), lastCrc := iendCrc, phase := .done }) := by
  unfold execIend at h
  split_ifs at h with hp
  · exact .inl ⟨_, raise_next h⟩
  · rcases emitChunk_cases h with ⟨hfit, ht⟩ | ⟨-, ht⟩
    · exact .inr ⟨Decidable.not_not.mp hp, hfit, ht⟩
    · exact .inl ⟨_, ht⟩

end Sys2Proof.Laws
end

