-- ==== Sys2Proof/Laws/PerInstr.lean ====
section
/-! SUPPORT. The family OpcField: every command is well formed and its word carries its opcode in bits [7:0]. -/

namespace Sys2Proof.Laws

/-- The word of a command has the command's OPC value in bits [7:0] (R55, R60 of 30_encoding.md), and the command is
well formed. -/
def OpcField.Statement (i : Instr) : Prop := i.wellFormed = true ∧ opcField (encode i) = i.opcode

theorem OpcField.nop : OpcField.Statement .nop := ⟨rfl, by decide⟩

theorem OpcField.reset : OpcField.Statement .reset := ⟨rfl, by decide⟩

theorem OpcField.parse : OpcField.Statement .parse := ⟨rfl, by decide⟩

theorem OpcField.xrow : OpcField.Statement .xrow := ⟨rfl, by decide⟩

theorem OpcField.xall : OpcField.Statement .xall := ⟨rfl, by decide⟩

theorem OpcField.crcinit : OpcField.Statement .crcinit := ⟨rfl, by decide⟩

theorem OpcField.crcb (imm8 : Byte) : OpcField.Statement (.crcb imm8) := by
  refine ⟨rfl, ?_⟩
  revert imm8
  decide +kernel

theorem OpcField.crcupd (spc : Space) : OpcField.Statement (.crcupd spc) := by
  refine ⟨rfl, ?_⟩
  cases spc <;> decide

theorem OpcField.crcfin : OpcField.Statement .crcfin := ⟨rfl, by decide⟩

theorem OpcField.pngsig : OpcField.Statement .pngsig := ⟨rfl, by decide⟩

theorem OpcField.ihdr : OpcField.Statement .ihdr := ⟨rfl, by decide⟩

theorem OpcField.plte : OpcField.Statement .plte := ⟨rfl, by decide⟩

theorem OpcField.idat : OpcField.Statement .idat := ⟨rfl, by decide⟩

theorem OpcField.iend : OpcField.Statement .iend := ⟨rfl, by decide⟩

end Sys2Proof.Laws
end

