-- ==== Sys2Proof/Tests/Slice0.lean ====
section
/-! SUPPORT. The model's own tests. Expected values are from spec/: the encodings of 30_encoding.md and the vectors of
95_test_vectors.md, named T-..; the witness theorems show states that meet the hypotheses of the obligations. -/

namespace Sys2Proof.Tests

open Sys2Proof.Machine Sys2Proof.Laws

/- The theorems below are checked one after another: side by side their kernel checks need too much memory. -/
set_option Elab.async false

/-! ## Helpers -/

/-- The state an outcome goes on with. -/
def after (o : Host.Outcome State Fault Refusal) : State :=
  match o with
  | .next t => t
  | .fault _ => State.reset
  | .refused _ => State.reset

/-- The outcome is a next state. -/
def goesOn (o : Host.Outcome State Fault Refusal) : Bool :=
  match o with
  | .next _ => true
  | .fault _ => false
  | .refused _ => false

/-- File B24 of 95_test_vectors.md. -/
def b24 : List Byte :=
    [0x42#8, 0x4D#8, 0x46#8] ++ List.replicate 7 0x00#8 ++ [0x36#8, 0x00#8, 0x00#8, 0x00#8, 0x28#8, 0x00#8,
    0x00#8, 0x00#8, 0x02#8, 0x00#8, 0x00#8, 0x00#8, 0x02#8, 0x00#8, 0x00#8, 0x00#8, 0x01#8, 0x00#8, 0x18#8] ++
    List.replicate 5 0x00#8 ++ [0x10#8, 0x00#8, 0x00#8, 0x00#8, 0x13#8, 0x0B#8, 0x00#8, 0x00#8, 0x13#8, 0x0B#8]
    ++ List.replicate 12 0x00#8 ++ [0xFF#8, 0x00#8, 0xFF#8, 0x00#8, 0x00#8, 0x00#8, 0xFF#8, 0x00#8, 0x00#8,
    0xFF#8, 0xFF#8, 0xFF#8, 0x00#8, 0x00#8]

/-- File B8 of 95_test_vectors.md. -/
def b8 : List Byte :=
    [0x42#8, 0x4D#8, 0x42#8] ++ List.replicate 7 0x00#8 ++ [0x3E#8, 0x00#8, 0x00#8, 0x00#8, 0x28#8, 0x00#8,
    0x00#8, 0x00#8, 0x02#8, 0x00#8, 0x00#8, 0x00#8, 0x01#8, 0x00#8, 0x00#8, 0x00#8, 0x01#8, 0x00#8, 0x08#8] ++
    List.replicate 5 0x00#8 ++ [0x04#8, 0x00#8, 0x00#8, 0x00#8, 0x13#8, 0x0B#8, 0x00#8, 0x00#8, 0x13#8, 0x0B#8,
    0x00#8, 0x00#8, 0x02#8] ++ List.replicate 7 0x00#8 ++ [0x01#8, 0x02#8, 0x03#8, 0x00#8, 0x04#8, 0x05#8,
    0x06#8, 0x00#8, 0x01#8, 0x00#8, 0x00#8, 0x00#8]

/-- The 9 x 1 file at 1 bpp of vector T-X10, with the palette of T-F12. -/
def b1 : List Byte :=
    [0x42#8, 0x4D#8, 0x42#8] ++ List.replicate 7 0x00#8 ++ [0x3E#8, 0x00#8, 0x00#8, 0x00#8, 0x28#8, 0x00#8,
    0x00#8, 0x00#8, 0x09#8, 0x00#8, 0x00#8, 0x00#8, 0x01#8, 0x00#8, 0x00#8, 0x00#8, 0x01#8, 0x00#8, 0x01#8] ++
    List.replicate 5 0x00#8 ++ [0x04#8, 0x00#8, 0x00#8, 0x00#8, 0x13#8, 0x0B#8, 0x00#8, 0x00#8, 0x13#8, 0x0B#8,
    0x00#8, 0x00#8, 0x02#8] ++ List.replicate 11 0x00#8 ++ [0xFF#8, 0xFF#8, 0xFF#8, 0x00#8, 0xA5#8, 0x80#8,
    0x00#8, 0x00#8]

/-- The canonical memory that holds the given bytes from address `a` on. -/
def cells : Nat → List Byte → Memory
  | _, [] => []
  | a, b :: bs => if b = 0x00#8 then cells (a + 1) bs else (a, b) :: cells (a + 1) bs

/-- The reset state with a file in SRC and its length in SRC_LEN. -/
def withFile (f : List Byte) : State :=
  { State.reset with src := cells 0 f, srcLen := toReg f.length }

/-- The file parsed. -/
def parsed (f : List Byte) : State := (withFile f).committed

/-- The file parsed, with another SCN_SIZE. -/
def parsedScn (f : List Byte) (n : Nat) : State :=
  { parsed f with sizes := { src := 4096, scn := n, pay := 4096, snk := 4096 } }

/-- The file parsed, the phase moved on and the first `n` bytes of the sink written with zeros. -/
def inPhase (f : List Byte) (p : Phase) (n : Nat) : State := { parsed f with phase := p, snkLen := toReg n }

/-- The same with a small sink. -/
def smallSink (f : List Byte) (p : Phase) (n size : Nat) : State :=
  { inPhase f p n with sizes := { src := 4096, scn := 4096, pay := 16, snk := size } }

/-- The reset state whose host does one thing. -/
def host (i : Input) : State := { State.reset with inputs := [i] }

/-- The reset state with an error held. -/
def inError (e : ErrCode) (w : Word) : State := State.reset.raised e w

/-! ## Well-formedness: each check refuses its ill-formed parameter -/

theorem test_sizes_src_zero :
    Sizes.wellFormed { src := 0, scn := 4096, pay := 4096, snk := 4096 } = false := by decide

theorem test_sizes_src_tooLarge :
    Sizes.wellFormed { src := 268435457, scn := 4096, pay := 4096, snk := 4096 } = false := by decide

theorem test_sizes_scn_zero :
    Sizes.wellFormed { src := 4096, scn := 0, pay := 4096, snk := 4096 } = false := by decide

theorem test_sizes_scn_tooLarge :
    Sizes.wellFormed { src := 4096, scn := 268435457, pay := 4096, snk := 4096 } = false := by decide

theorem test_sizes_pay_zero :
    Sizes.wellFormed { src := 4096, scn := 4096, pay := 0, snk := 4096 } = false := by decide

theorem test_sizes_pay_tooLarge :
    Sizes.wellFormed { src := 4096, scn := 4096, pay := 268435457, snk := 4096 } = false := by decide

theorem test_sizes_snk_zero :
    Sizes.wellFormed { src := 4096, scn := 4096, pay := 4096, snk := 0 } = false := by decide

theorem test_sizes_snk_tooLarge :
    Sizes.wellFormed { src := 4096, scn := 4096, pay := 4096, snk := 268435457 } = false := by decide

theorem test_sizes_bounds : Sizes.wellFormed { src := 1, scn := 268435456, pay := 1, snk := 268435456 } = true := by
  decide

theorem test_every_term_wellFormed : Instr.wellFormed (.crcb 0xFF#8) = true ∧ Instr.wellFormed (.crcupd .snk) = true := by
  decide

/-! ## Decoding words written out from the encodings (30_encoding.md: IMM8 in [23:16], SPC in [9:8], OPC in [7:0]) -/

theorem test_decode_nop : decode 0b00000000000000000000000000000000#32 = .instr (.nop) := by decide

theorem test_decode_reset : decode 0b00000000000000000000000000000001#32 = .instr (.reset) := by decide

theorem test_decode_parse : decode 0b00000000000000000000000000010000#32 = .instr (.parse) := by decide

theorem test_decode_xrow : decode 0b00000000000000000000000000100000#32 = .instr (.xrow) := by decide

theorem test_decode_xall : decode 0b00000000000000000000000000100001#32 = .instr (.xall) := by decide

theorem test_decode_crcinit : decode 0b00000000000000000000000000110000#32 = .instr (.crcinit) := by decide

theorem test_decode_crcb : decode 0b00000000010000010000000000110001#32 = .instr (.crcb 0x41#8) := by decide

theorem test_decode_crcupd_src : decode 0b00000000000000000000000000110010#32 = .instr (.crcupd .src) := by decide

theorem test_decode_crcupd_scn : decode 0b00000000000000000000000100110010#32 = .instr (.crcupd .scn) := by decide

theorem test_decode_crcupd_pay : decode 0b00000000000000000000001000110010#32 = .instr (.crcupd .pay) := by decide

theorem test_decode_crcupd_snk : decode 0b00000000000000000000001100110010#32 = .instr (.crcupd .snk) := by decide

theorem test_decode_crcfin : decode 0b00000000000000000000000000110011#32 = .instr (.crcfin) := by decide

theorem test_decode_pngsig : decode 0b00000000000000000000000001000000#32 = .instr (.pngsig) := by decide

theorem test_decode_ihdr : decode 0b00000000000000000000000001000001#32 = .instr (.ihdr) := by decide

theorem test_decode_plte : decode 0b00000000000000000000000001000010#32 = .instr (.plte) := by decide

theorem test_decode_idat : decode 0b00000000000000000000000001000011#32 = .instr (.idat) := by decide

theorem test_decode_iend : decode 0b00000000000000000000000001000100#32 = .instr (.iend) := by decide

/-- T-D3, T-D11: reserved opcodes. -/
theorem test_decode_reservedOpcodes :
    [0x00000002#32, 0x000000FF#32, 0x00000045#32, 0x00000034#32].map decode =
      List.replicate 4 (.illegal .reservedOpcode) := by decide

/-- T-D4, T-D5, T-D7, T-D9, T-D10: reserved bits. -/
theorem test_decode_reservedBits :
    [0x00000110#32, 0x80000010#32, 0x00000432#32, 0x00410131#32, 0x01000031#32].map decode =
      List.replicate 5 (.illegal .reservedBits) := by decide

theorem test_decodeTableWord : decodeTableWord 32 0x00610031 = some (.crcb 0x61#8) ∧ decodeTableWord 32 0x110 = none := by
  decide

theorem test_withFetchWord_runs : (after (step (State.reset.withFetchWord 32 0x00410031))).crcAcc = 0x2C266174#32 := by
  decide +kernel

/-! ## One step of each command -/

/-- T-D1. -/
theorem test_nop : after (step (State.reset.withCommand 0x00000000#32)) = State.reset := rfl

/-- T-D13. -/
theorem test_reset : after (step ((inError .rangeError 0x20#32).withCommand 0x00000001#32)) = State.reset := rfl

/-- T-P1. -/
theorem test_parse_b24 :
    (after (exec .parse (withFile b24))).statusWord = 0x00000100#32 ∧
    (after (exec .parse (withFile b24))).header =
      { signature := 0x4D42#32, fileSize := 70#32, reserved1 := 0#32, reserved2 := 0#32, pixOff := 54#32,
        hdrSize := 40#32, width := 2#32, height := 2#32, planes := 1#32, bpp := 24#32, compression := 0#32,
        imageSize := 16#32, xRes := 2835#32, yRes := 2835#32, palCount := 0#32, impCount := 0#32, dataBytes := 6#32,
        stride := 8#32, palEntries := 0#32 } ∧
    (after (exec .parse (withFile b24))).scnLen = 14#32 := by decide +kernel

/-- T-P27. -/
theorem test_parse_b8 :
    (after (exec .parse (withFile b8))).statusWord = 0x00000900#32 ∧
    (after (exec .parse (withFile b8))).palette[0] = 0x00030201#32 ∧
    (after (exec .parse (withFile b8))).palette[1] = 0x00060504#32 ∧
    (after (exec .parse (withFile b8))).palette[2] = 0#32 := by decide +kernel

/-- T-X1. -/
theorem test_xrow :
    Memory.readBytes (after (exec .xrow { parsed b24 with arg0 := 1#32 })).scn 7 7 =
      [0x00#8, 0xFF#8, 0x00#8, 0x00#8, 0x00#8, 0xFF#8, 0x00#8] := by decide +kernel

/-- T-X7 and E3: the scanlines of the source's 2 x 2 image. -/
theorem test_xall :
    Memory.readBytes (after (exec .xall (parsedScn b24 14))).scn 0 14 =
      [0x00#8, 0x00#8, 0x00#8, 0xFF#8, 0xFF#8, 0xFF#8, 0xFF#8,
       0x00#8, 0xFF#8, 0x00#8, 0x00#8, 0x00#8, 0xFF#8, 0x00#8] := by decide +kernel

/-- T-X10: packed bits pass through. -/
theorem test_xall_packed :
    Memory.readBytes (after (exec .xall (parsed b1))).scn 0 3 = [0x00#8, 0xA5#8, 0x80#8] := by decide +kernel

theorem test_crcinit : (after (exec .crcinit { State.reset with crcAcc := 5#32 })).crcAcc = 0xFFFFFFFF#32 := by decide

/-- T-D8. -/
theorem test_crcb : (after (exec (.crcb 0x41#8) State.reset)).crcAcc = 0x2C266174#32 := by decide +kernel

/-- T-C11, T-C15. -/
theorem test_crcupd : (after (exec (.crcupd .src) { withFile b24 with arg1 := 2#32 })).crcAcc = 0x7404FDAA#32 := by
  decide +kernel

/-- T-C20: no 32-bit wrap. -/
theorem test_crcupd_noWrap :
    (after (exec (.crcupd .src) { parsed b24 with arg0 := 0xFFFFFFFF#32, arg1 := 2#32 })).statusWord = 0x000001A2#32 := by
  decide +kernel

/-- T-C13. -/
theorem test_crcfin : (after (exec .crcfin { State.reset with crcAcc := 0x174841BC#32 })).crcRes = 0xE8B7BE43#32 := by
  decide

theorem test_pngsig :
    Memory.readBytes (after (exec .pngsig (parsed b24))).snk 0 8 =
      [0x89#8, 0x50#8, 0x4E#8, 0x47#8, 0x0D#8, 0x0A#8, 0x1A#8, 0x0A#8] := by decide +kernel

/-- Program P1. -/
theorem test_ihdr :
    Memory.readBytes (after (exec .ihdr (inPhase b24 .sig 8))).snk 8 25 =
      [0x00#8, 0x00#8, 0x00#8, 0x0D#8, 0x49#8, 0x48#8, 0x44#8, 0x52#8, 0x00#8, 0x00#8, 0x00#8, 0x02#8, 0x00#8, 0x00#8,
       0x00#8, 0x02#8, 0x08#8, 0x02#8, 0x00#8, 0x00#8, 0x00#8, 0xFD#8, 0xD4#8, 0x9A#8, 0x73#8] := by decide +kernel

/-- T-F11. -/
theorem test_ihdr_indexed : (after (exec .ihdr (inPhase b1 .sig 8))).lastCrc = 0x360C163E#32 := by decide +kernel

/-- T-F12. -/
theorem test_plte :
    Memory.readBytes (after (exec .plte (inPhase b1 .hdr 33))).snk 33 18 =
      [0x00#8, 0x00#8, 0x00#8, 0x06#8, 0x50#8, 0x4C#8, 0x54#8, 0x45#8, 0x00#8, 0x00#8, 0x00#8, 0xFF#8, 0xFF#8, 0xFF#8,
       0xA5#8, 0xD9#8, 0x9F#8, 0xDD#8] := by decide +kernel

/-- T-F5. -/
theorem test_idat :
    Memory.readBytes (after (exec .idat { inPhase b24 .hdr 33 with
        pay := cells 0 [0x78#8, 0x01#8], arg1 := 2#32 })).snk 33 14 =
      [0x00#8, 0x00#8, 0x00#8, 0x02#8, 0x49#8, 0x44#8, 0x41#8, 0x54#8, 0x78#8, 0x01#8, 0xEC#8, 0x1A#8, 0x7E#8,
       0xD2#8] := by decide +kernel

/-- T-F4: an empty IDAT. -/
theorem test_idat_empty : (after (exec .idat (inPhase b24 .hdr 33))).lastCrc = 0x35AF061E#32 := by decide +kernel

/-- T-F6. -/
theorem test_iend :
    Memory.readBytes (after (exec .iend (inPhase b24 .dat 45))).snk 45 12 =
      [0x00#8, 0x00#8, 0x00#8, 0x00#8, 0x49#8, 0x45#8, 0x4E#8, 0x44#8, 0xAE#8, 0x42#8, 0x60#8, 0x82#8] ∧
    (after (exec .iend (inPhase b24 .dat 45))).statusWord = 0x00000600#32 := by decide +kernel

/-! ## The host's side -/

/-- T-D3. -/
theorem test_illegal : (after (step (State.reset.withCommand 0x00000002#32))).statusWord = 0x00000092#32 := by decide

theorem test_host_write_misaligned :
    step (host (.write .b32 0x10000001#32 0#32)) = .fault .busMisaligned ∧
    step (host (.write .b16 0x10000000#32 0#32)) = .fault .busWidth ∧
    step (host (.read .b32 0x00001000#32)) = .fault .busNoTarget ∧
    step (host (.read .b8 0x20001000#32)) = .fault .busPastSize := ⟨rfl, rfl, rfl, rfl⟩

/-! ## The written form (R64 to R66; lines of the programs of 95_test_vectors.md) -/

theorem test_read_crcb : readLine "  crcb 'a'   ; comment".toList = some [.cmd (.crcb 0x61#8)] := by decide +kernel

theorem test_read_wr : readLine "wr SRC_LEN, 70".toList = some [.wr .srcLen 70#32] := by decide +kernel

theorem test_read_mw : readLine "mw src, 1, 4D".toList = some [.mw .src 1 [0x4D#8]] := by decide +kernel

theorem test_read_crc32 : readLine "crc32 snk, 12, 17".toList = some [.crc32 .snk 12#32 17#32] := by decide +kernel

theorem test_read_crcstr :
    readLine ['c', 'r', 'c', 's', 't', 'r', ' ', '"', 'I', 'E', '"'] = some [.crcstr [0x49#8, 0x45#8]] := by
  decide +kernel

/-- R136, and the first access of R135's script. -/
theorem test_conversion :
    Ended (inPhase b24 .done 57) = true ∧ Ended (parsed b24) = false ∧ Ended (inError .ioError 0x21#32) = true ∧
    (scriptInputs (conversionScript [0x42#8] [0x78#8])).head? = some (.write .b8 0x10000000#32 0x42#32) := by
  decide +kernel

theorem test_read_comment : readLine "; nothing".toList = some [] ∧ readLine "crcb 256".toList = none := by decide +kernel

/-! ## Witnesses: states that meet the hypotheses of each obligation -/

theorem parsed_unused (f : List Byte) (n : Nat) (hn : bmpPalEntries (withFile f).src = n)
    (h : (parsed f).header.palEntries.toNat = n) (k : Fin 256) (hk : (parsed f).header.palEntries.toNat ≤ k.val) :
    (parsed f).palette[k.val] = 0#32 := by
  have hp := parsedPalette_get (withFile f).src k
  rw [if_neg (by omega)] at hp
  exact hp

theorem parsed_top (f : List Byte) (k : Fin 256) : ((parsed f).palette[k.val]).extractLsb' 24 8 = 0#8 := by
  have hp : (parsed f).palette[k.val] = _ := parsedPalette_get (withFile f).src k
  rw [hp]
  split
  · exact paletteEntry_top _ _
  · rfl

/-- The relations of R27 for a parsed file, from its numbers; the palette file needs no evaluation. -/
theorem parsed_geometry {f : List Byte} (n : Nat) (hn : bmpPalEntries (withFile f).src = n)
    (hpal : (parsed f).header.palEntries.toNat = n)
    (h : (1 ≤ (parsed f).header.width.toInt ∧ 1 ≤ (parsed f).header.height.toInt) ∧
      (parsed f).header.compression = 0#32 ∧ (parsed f).header.bpp.toNat ∈ [1, 2, 4, 8, 24] ∧
      (parsed f).header.dataBytes.toNat = ((parsed f).imgWidth * (parsed f).header.bpp.toNat + 7) / 8 ∧
      (parsed f).header.stride.toNat = ((parsed f).imgWidth * (parsed f).header.bpp.toNat + 31) / 32 * 4)
    (hfile : (parsed f).header.pixOff.toNat + (parsed f).imgHeight * (parsed f).header.stride.toNat ≤
        (parsed f).sizes.src ∧
      (parsed f).scnLen.toNat = (parsed f).imgHeight * (1 + (parsed f).header.dataBytes.toNat))
    (hdepth : ((parsed f).header.bpp.toNat = 24 → n = 0) ∧
      ((parsed f).header.bpp.toNat ≤ 8 → 1 ≤ n ∧ n ≤ 2 ^ (parsed f).header.bpp.toNat) ∧
      (parsed f).pal = decide ((parsed f).header.bpp.toNat ≤ 8)) : GeometryOk (parsed f) where
  width := h.1.1
  height := h.1.2
  compression := h.2.1
  bpp := h.2.2.1
  dataBytes := h.2.2.2.1
  stride := h.2.2.2.2
  pixels := hfile.1
  scnLen := hfile.2
  noPalette := by rw [hpal]; exact hdepth.1
  palette := by rw [hpal]; exact hdepth.2.1
  palFlag := hdepth.2.2
  unusedEntries := parsed_unused f n hn hpal
  entryTop := parsed_top f

theorem b24_geometry : GeometryOk (parsed b24) := by
  apply parsed_geometry 0 <;> decide +kernel

theorem b8_geometry : GeometryOk (parsed b8) := by
  apply parsed_geometry 2 <;> decide +kernel

/-- The relations of R27 speak of neither SCN_SIZE nor the command in flight. -/
theorem geometry_frame {s : State} (g : GeometryOk s) (n : Nat) (c : Option InFlight) :
    GeometryOk { s with sizes := { s.sizes with scn := n }, inFlight := c } :=
  { width := g.width, height := g.height, compression := g.compression, bpp := g.bpp, dataBytes := g.dataBytes,
    stride := g.stride, pixels := g.pixels, scnLen := g.scnLen, noPalette := g.noPalette, palette := g.palette,
    palFlag := g.palFlag, unusedEntries := g.unusedEntries, entryTop := g.entryTop }

theorem b24_memories : MemoriesOk (parsed b24) := by
  intro sp
  cases sp
  case src => decide +kernel
  all_goals exact ⟨rfl, rfl⟩

theorem b24_inv : Inv (parsed b24) := by
  refine ⟨b24_memories, ⟨by decide, fun h => ?_, fun _ => b24_geometry⟩, ⟨by decide, fun h => ?_, [], rfl⟩,
    fun _ => rfl, fun f h => ?_⟩
  · cases h
  · cases h
  · cases h

theorem reset_memories : MemoriesOk State.reset := by
  intro sp
  cases sp <;> exact ⟨rfl, rfl⟩

theorem witness_DecodeOfEncode : Instr.wellFormed (.crcb 0xFF#8) = true ∧ Instr.wellFormed (.crcupd .snk) = true := by
  decide

theorem witness_EncodeOfDecoded :
    decode 0x00FF0031#32 = .instr (.crcb 0xFF#8) ∧ decode 0x00000332#32 = .instr (.crcupd .snk) := by decide

theorem witness_NoTwoRows :
    ∃ r ∈ opcodeRows, Row.accepts r 0x00FF0031#32 = true := by decide

theorem witness_StepRuns :
    (State.reset.withCommand 0x00610031#32).inFlight = some { word := 0x00610031#32, wait := 0 } ∧
    decode 0x00610031#32 = .instr (.crcb 0x61#8) := by decide

theorem witness_IllegalWord :
    (State.reset.withCommand 0x00000110#32).inFlight = some { word := 0x00000110#32, wait := 0 } ∧
    decode 0x00000110#32 = .illegal .reservedBits ∧ decode 0x000000FF#32 = .illegal .reservedOpcode := by decide

theorem witness_CommandWrite :
    ((host (.write .b32 4#32 0x10#32)).inFlight = none ∧ (host (.write .b32 4#32 0x10#32)).err = none ∧
      (host (.write .b32 4#32 0x10#32)).inputs = [.write .b32 4#32 0x10#32]) ∧
    ({ inError .ioError 0x21#32 with inputs := [.write .b32 4#32 1#32] }.inFlight = none ∧
      { inError .ioError 0x21#32 with inputs := [.write .b32 4#32 1#32] }.err ≠ none) := by decide

theorem witness_StickyDrops :
    { inError .ioError 0x21#32 with inputs := [.write .b32 4#32 0x10#32] }.inFlight = none ∧
    { inError .ioError 0x21#32 with inputs := [.write .b32 4#32 0x10#32] }.err ≠ none ∧
    { inError .ioError 0x21#32 with inputs := [.write .b32 4#32 0x10#32] }.inputs = [.write .b32 4#32 0x10#32] ∧
    0x10#32 ≠ 0x00000001#32 := by decide

/-- Staying in the error state, leaving it by RESET, leaving it by power-on. -/
theorem witness_StickyHolds :
    (ErrorOk { inError .ioError 0x21#32 with inputs := [.write .b32 4#32 0x10#32] } ∧
      goesOn (step { inError .ioError 0x21#32 with inputs := [.write .b32 4#32 0x10#32] }) = true) ∧
    (ErrorOk ((inError .ioError 0x21#32).withCommand 1#32) ∧
      goesOn (step ((inError .ioError 0x21#32).withCommand 1#32)) = true) ∧
    (ErrorOk { inError .ioError 0x21#32 with inputs := [.powerOn ⟨[], [], [], []⟩] } ∧
      goesOn (step { inError .ioError 0x21#32 with inputs := [.powerOn ⟨[], [], [], []⟩] }) = true) := by
  refine ⟨⟨⟨fun h => ?_, fun f h => ?_⟩, rfl⟩, ⟨⟨fun h => ?_, fun f h _ => ?_⟩, rfl⟩, ⟨fun h => ?_, fun f h => ?_⟩, rfl⟩
  · cases h
  · cases h
  · cases h
  · injection h with h
    rw [← h]
    decide
  · cases h
  · cases h

theorem witness_ErrorsArePrecise :
    (State.reset.withCommand 0x00000020#32).err = none ∧
    (State.reset.withCommand 0x00000020#32).inFlight = some { word := 0x00000020#32, wait := 0 } ∧
    goesOn (step (State.reset.withCommand 0x00000020#32)) = true ∧
    (after (step (State.reset.withCommand 0x00000020#32))).err = some .sequenceError := by decide

/-- A command and an illegal word, each with three moves of the host to wait. -/
theorem witness_TakenCommand :
    { host .poll with inFlight := some { word := 0x20#32, wait := 3 } }.inFlight =
      some { word := 0x20#32, wait := 3 } ∧
    { host .poll with inFlight := some { word := 0x20#32, wait := 3 } }.inputs = .poll :: [] ∧
    decode 0x20#32 = .instr .xrow ∧ decode 0x02#32 = .illegal .reservedOpcode := by decide

/-- The conditional PLTE with PAL = 1 and with PAL = 0 (R66). -/
theorem witness_Pseudo :
    { parsed b8 with inputs := [.ifPal 0x42#32, .poll] }.inFlight = none ∧
    { parsed b8 with inputs := [.ifPal 0x42#32, .poll] }.pal = true ∧
    (after (step { parsed b8 with inputs := [.ifPal 0x42#32, .poll] })).inputs =
      [.write .b32 4#32 0x42#32, .poll, .poll] ∧
    (after (step { parsed b24 with inputs := [.ifPal 0x42#32, .poll] })).inputs = [.poll] := by decide +kernel

theorem witness_Idle :
    State.reset.inFlight = none ∧ State.reset.inputs = [] ∧ (host .poll).inFlight = none ∧
    (host .poll).inputs = .poll :: [] := by decide

/-- The lowest and the highest number of an error and of a phase. -/
theorem witness_Status :
    State.reset.err = none ∧ (inError .invalidSignature 0x10#32).err = some .invalidSignature ∧
    (inError .rangeError 0x20#32).err = some .rangeError ∧ State.reset.phase = .idle ∧
    { State.reset with phase := .done }.phase = .done := by decide

theorem reservedOffset_iff (off : Nat) :
    ReservedOffset off ↔ off % 4 = 0 ∧ ((0x08C ≤ off ∧ off < 0x400) ∨ (0x800 ≤ off ∧ off < 0x1000)) := Iff.rfl

theorem unnamedOffset_iff (off : Nat) : UnnamedOffset off ↔ off % 4 = 0 ∧ 0x030 ≤ off ∧ off < 0x040 := Iff.rfl

/-- The first and last offset of the two reserved ranges and of the one no row names, and registers at the ends. -/
theorem witness_RegisterMap :
    (∀ off ∈ [0x08C, 0x3FC, 0x800, 0xFFC], ReservedOffset off) ∧ (∀ off ∈ [0x030, 0x03C], UnnamedOffset off) ∧
    (0x000, 7#32) ∈ registerTable State.reset ∧ (0x088, 0#32) ∈ registerTable State.reset ∧
    regAt 0x088 = some .palEntries ∧ regAt 0x7FC = some (.palette 255) := by
  simp only [reservedOffset_iff, unnamedOffset_iff]
  decide

/-- Reads of ERR_CMD, PAL[255] and the last reserved offset; writes to VERSION and the first reserved offset. -/
theorem witness_RegisterWindow :
    (host (.read .b32 0x7FC#32)).inFlight = none ∧
    (0x02C, (host (.read .b32 0x2C#32)).errCmd) ∈ registerTable (host (.read .b32 0x2C#32)) ∧
    (host (.read .b32 0x2C#32)).inputs = .read .b32 (BitVec.ofNat 32 0x02C) :: [] ∧
    (host (.read .b32 0x7FC#32)).inputs = .read .b32 (BitVec.ofNat 32 (0x400 + 4 * (255 : Fin 256).val)) :: [] ∧
    (host (.read .b32 0xFFC#32)).inputs = .read .b32 (BitVec.ofNat 32 0xFFC) :: [] ∧
    (0x000 ∉ [0x004, 0x00C, 0x010, 0x014] ∧ 0x08C ∉ [0x004, 0x00C, 0x010, 0x014]) ∧
    (¬ UnnamedOffset 0x000 ∧ ¬ UnnamedOffset 0x08C) ∧
    (host (.write .b32 0#32 5#32)).inputs = .write .b32 (BitVec.ofNat 32 0x000) 5#32 :: [] ∧
    (host (.write .b32 0x8C#32 5#32)).inputs = .write .b32 (BitVec.ofNat 32 0x08C) 5#32 :: [] := by
  simp only [unnamedOffset_iff]
  decide

theorem witness_HostWritesOperands :
    (host (.write .b32 0x0C#32 7#32)).inFlight = none ∧
    (host (.write .b32 0x0C#32 7#32)).inputs = .write .b32 0x0000000C#32 7#32 :: [] ∧
    (host (.write .b32 0x10#32 7#32)).inputs = .write .b32 0x00000010#32 7#32 :: [] ∧
    (host (.write .b32 0x14#32 7#32)).inputs = .write .b32 0x00000014#32 7#32 :: [] := by decide

/-- The last byte of SRC and the first of PAY. -/
theorem witness_HostStores :
    State.reset.sizes.wellFormed = true ∧ Memory.wf (State.reset.mem .src) = true ∧
    Memory.wf (State.reset.mem .pay) = true ∧ 4095 < State.reset.sizes.of .src ∧ 0 < State.reset.sizes.of .pay ∧
    (host (.write .b8 0x10000FFF#32 9#32)).inputs = .write .b8 (BitVec.ofNat 32 (0x10000000 + 4095)) 9#32 :: [] ∧
    (host (.write .b8 0x30000000#32 9#32)).inputs = .write .b8 (BitVec.ofNat 32 (0x30000000 + 0)) 9#32 :: [] := by
  decide

/-- The last word of SRC written, the last word of SNK read. -/
theorem witness_HostWords :
    (Space.src, 0x10000000) ∈ spaceWindows ∧ (Space.snk, 0x40000000) ∈ spaceWindows ∧ 4092 % 4 = 0 ∧
    4092 + 4 ≤ State.reset.sizes.of .src ∧ 4092 + 4 ≤ State.reset.sizes.of .snk ∧
    (host (.write .b32 0x10000FFC#32 9#32)).inputs = .write .b32 (BitVec.ofNat 32 (0x10000000 + 4092)) 9#32 :: [] ∧
    (host (.read .b32 0x40000FFC#32)).inputs = .read .b32 (BitVec.ofNat 32 (0x40000000 + 4092)) :: [] := by decide

theorem witness_ScnAndSnk :
    4095 < State.reset.sizes.of .scn ∧ 4092 + 4 ≤ State.reset.sizes.of .snk ∧
    (host (.write .b8 0x20000FFF#32 9#32)).inputs = .write .b8 (BitVec.ofNat 32 (0x20000000 + 4095)) 9#32 :: [] ∧
    (host (.write .b32 0x40000FFC#32 9#32)).inputs = .write .b32 (BitVec.ofNat 32 (0x40000000 + 4092)) 9#32 :: [] ∧
    (host (.read .b8 0x20000FFF#32)).inputs = .read .b8 (BitVec.ofNat 32 (0x20000000 + 4095)) :: [] := by decide

/-- U3: a host write to SCN or SNK. -/
theorem test_host_write_readOnly :
    step (host (.write .b8 0x20000000#32 9#32)) = .fault .busReadOnly ∧
    step (host (.write .b32 0x40000FFC#32 9#32)) = .fault .busReadOnly := ⟨rfl, rfl⟩

/-- R35, R65: `mw` past the window of its space reaches no other window. -/
theorem test_mw_past_window :
    step { State.reset with inputs := scriptInputs [.mw .scn 0x10000000 [0xAA#8]] } = .fault .busNoTarget ∧
    step { State.reset with inputs := scriptInputs [.mw .src 0x100000000 [0xAA#8]] } = .fault .busNoTarget := by
  constructor <;> rfl

/-- A legal access to a window is 8 or 32 bits wide and inside the space; SCN and SNK take no write. -/
theorem legal_window {write : Bool} {width : Width} {a : Nat} (h : LegalAccess State.reset.sizes write width a) :
    (a < 0x1000 ∧ width = .b32) ∨
    (width ≠ .b16 ∧ (width = .b32 → a % 4 = 0) ∧ a % 0x10000000 < 0x1000 ∧ 0x10000000 ≤ a ∧
      (write = true → a / 0x10000000 % 2 = 1)) := by
  rcases h with ⟨h1, h2, -⟩ | ⟨sp, base, hb, h1, h2, hw, h3⟩
  · exact .inl ⟨h1, h2⟩
  · have hz : State.reset.sizes.of sp = 4096 := by cases sp <;> rfl
    rw [hz] at h3
    obtain rfl := mem_spaceWindows.mp hb
    right
    have hb : windowBase sp % 0x10000000 = 0 ∧ 0x10000000 ≤ windowBase sp ∧
        (write = true → windowBase sp / 0x10000000 % 2 = 1) := by
      cases sp <;> simp [windowBase] at hw ⊢ <;> exact hw
    have h4 : width ≠ .b16 ∧ (width = .b32 → a % 4 = 0) ∧ a - windowBase sp < 4096 := by
      rcases h3 with ⟨rfl, h3⟩ | ⟨rfl, h3, h4⟩ <;> simp <;> omega
    exact ⟨h4.1, h4.2.1, by omega, by omega, fun h => by have := hb.2.2 h; omega⟩

/-- Accesses on both sides of each boundary: the end of the register window, the end of SRC, alignment, width, a window
that takes no write, and an `mw` byte just past the end of its space. -/
theorem witness_BusErrors :
    (∀ w, LegalAccess State.reset.sizes w .b32 0xFFC ∧ LegalAccess State.reset.sizes w .b8 0x10000FFF ∧
      LegalAccess State.reset.sizes w .b32 0x30000FFC) ∧
    LegalAccess State.reset.sizes false .b8 0x20000000 ∧ ¬ LegalAccess State.reset.sizes true .b8 0x20000000 ∧
    (∀ w, ¬ LegalAccess State.reset.sizes w .b32 0x1000 ∧ ¬ LegalAccess State.reset.sizes w .b8 0x10001000 ∧
      ¬ LegalAccess State.reset.sizes w .b32 0x10000FFE ∧ ¬ LegalAccess State.reset.sizes w .b16 0x10000000) ∧
    State.reset.sizes.of .pay ≤ 4096 := by
  refine ⟨fun w => ⟨.inl (by decide), ?_, ?_⟩, ?_, fun h => ?_, fun w => ⟨?_, ?_, ?_, ?_⟩, by decide⟩
  · exact .inr ⟨.src, 0x10000000, by decide, by decide, by decide, fun _ => .inl rfl, .inl (by decide)⟩
  · exact .inr ⟨.pay, 0x30000000, by decide, by decide, by decide, fun _ => .inr rfl, .inr (by decide)⟩
  · exact .inr ⟨.scn, 0x20000000, by decide, by decide, by decide, (fun h => by cases h), .inl (by decide)⟩
  · have := legal_window h; simp at this
  all_goals intro h; have := legal_window h; simp at this

theorem witness_BusyHazard :
    { host (.read .b32 0xC#32) with inFlight := some { word := 0x20#32, wait := 0 + 1 } }.inFlight =
      some { word := 0x20#32, wait := 0 + 1 } ∧
    (host (.read .b32 0xC#32)).inputs = .read .b32 0xC#32 :: [] ∧ ¬ (Width.b32 = .b32 ∧ 0xC#32 = 0x00000008#32) ∧
    (host (.write .b32 0xC#32 1#32)).inputs = .write .b32 0xC#32 1#32 :: [] ∧
    (host (.read .b32 8#32)).inputs = .read .b32 0x00000008#32 :: [] := by decide

theorem witness_HostReads :
    (host (.read .b8 0x20000000#32)).inFlight = none ∧
    (host (.read .b8 0x20000000#32)).inputs = .read .b8 0x20000000#32 :: [] ∧
    goesOn (step (host (.read .b8 0x20000000#32))) = true := by decide

/-- Power-on with BUSY = 0 and with a command in flight. -/
theorem witness_PowerOn :
    (host (.powerOn ⟨[1#8], [], [], [2#8]⟩)).inFlight = none ∧
    (host (.powerOn ⟨[1#8], [], [], [2#8]⟩)).inputs = .powerOn ⟨[1#8], [], [], [2#8]⟩ :: [] ∧
    { host (.powerOn ⟨[], [], [], []⟩) with inFlight := some { word := 0x20#32, wait := 0 + 1 } }.inFlight =
      some { word := 0x20#32, wait := 0 + 1 } ∧
    (∀ sp ∈ [Space.src, .scn, .pay, .snk], 4095 < State.reset.sizes.of sp) := by decide

/-- T-C18 (the empty range at the end is inside) and T-C19 (one byte past it). -/
theorem witness_Crcupd :
    ({ State.reset with arg0 := 4096#32 } : State).arg0.toNat + ({ State.reset with arg0 := 4096#32 } : State).arg1.toNat ≤
      State.reset.sizes.of .src ∧
    State.reset.sizes.of .src < ({ State.reset with arg0 := 4095#32, arg1 := 2#32 } : State).arg0.toNat +
      ({ State.reset with arg0 := 4095#32, arg1 := 2#32 } : State).arg1.toNat := by decide

/-- With one range for all commands, and with a range of its own for each. -/
theorem witness_CrcOverPieces :
    (∀ i ∈ [Instr.crcb 0x61#8, .crcupd .src, .crcupd .snk],
      foldsBytes { State.reset with arg1 := 70#32 } i = true) ∧
    ∀ p ∈ [(0#32, 4#32, Instr.crcupd .src), (4#32, 66#32, .crcupd .src), (4096#32, 0#32, .crcupd .snk),
        (0#32, 0xFFFFFFFF#32, .crcb 0x61#8)],
      foldsBytes { State.reset with arg0 := p.1, arg1 := p.2.1 } p.2.2 = true := by decide

/-- T-C1's nine bytes in two CRCUPD commands with ARG0 and ARG1 set before each. -/
theorem test_crc_pieces :
    crc32 (([(0#32, 4#32, Instr.crcupd .src), (4#32, 5#32, .crcupd .src)] : List (Word × Word × Instr)).flatMap
      (fun p => foldedBytes { withFile [0x31#8, 0x32#8, 0x33#8, 0x34#8, 0x35#8, 0x36#8, 0x37#8, 0x38#8, 0x39#8] with
        arg0 := p.1, arg1 := p.2.1 } p.2.2)) = 0xCBF43926#32 := by decide +kernel

/-- One file for each check that a change of one field of B24 or of SRC_LEN makes fail first: T-P2, T-P3, T-P21, and the
phase check (T-P26). -/
theorem witness_ParseRaises :
    firstFailing (parseChecks { withFile b24 with srcLen := 13#32 }) = some .truncatedData ∧
    firstFailing (parseChecks { withFile b24 with srcLen := 4097#32 }) = some .rangeError ∧
    firstFailing (parseChecks { withFile b24 with srcLen := 53#32 }) = some .unsupportedHeader ∧
    firstFailing (parseChecks { withFile b24 with srcLen := 69#32 }) = some .truncatedData ∧
    firstFailing (parseChecks (parsed b24)) = some .sequenceError := by decide +kernel

/-- T-P4, T-P12, T-P16, T-P28: one changed byte. -/
theorem witness_ParseRaises_fields :
    firstFailing (parseChecks (withFile (b24.set 1 0x4E#8))) = some .invalidSignature ∧
    firstFailing (parseChecks (withFile (b24.set 30 0x01#8))) = some .unsupportedCompression ∧
    firstFailing (parseChecks (withFile (b24.set 22 0x00#8))) = some .invalidDimensions ∧
    firstFailing (parseChecks (withFile (b8.set 47 0x01#8))) = some .invalidPalette := by decide +kernel

theorem witness_ParseLoads :
    (withFile b24).sizes.wellFormed = true ∧ firstFailing (parseChecks (withFile b24)) = none ∧
    firstFailing (parseChecks (withFile b8)) = none := by decide +kernel

theorem witness_ParseRanges :
    (withFile b24).sizes.wellFormed = true ∧ firstFailing (parseChecks (withFile b24)) = none ∧
    goesOn (exec .parse (withFile b24)) = true := by decide +kernel

/-- A memory that differs from B24 just past the file. -/
theorem witness_ParseDepends :
    ∀ a, a < (withFile b24).srcLen.toNat →
      Memory.read (Memory.write (withFile b24).src 70 5#8) a = Memory.read (withFile b24).src a := by
  intro a ha
  have h : (withFile b24).srcLen.toNat = 70 := by decide
  exact read_write_other _ (by omega)

/-- The first and the last row, in an SCN that just holds the image. -/
theorem witness_Xrow :
    (parsedScn b24 14).phase ≠ .idle ∧ GeometryOk (parsedScn b24 14) ∧ Memory.wf (parsedScn b24 14).scn = true ∧
    (0#32).toNat < (parsedScn b24 14).imgHeight ∧ (1#32).toNat < (parsedScn b24 14).imgHeight ∧
    (1#32).toNat * (parsedScn b24 14).lineBytes + (parsedScn b24 14).lineBytes ≤ (parsedScn b24 14).sizes.scn := by
  refine ⟨by decide, ?_, by decide, by decide +kernel, by decide +kernel, by decide +kernel⟩
  exact geometry_frame b24_geometry 14 none

/-- T-X4, T-X3, T-X6. -/
theorem witness_XrowErrors :
    State.reset.phase = .idle ∧ (parsed b24).phase ≠ .idle ∧ (parsed b24).imgHeight ≤ (2#32).toNat ∧
    (1#32).toNat < (parsedScn b24 13).imgHeight ∧
    (parsedScn b24 13).sizes.scn < (1#32).toNat * (parsedScn b24 13).lineBytes + (parsedScn b24 13).lineBytes := by
  decide +kernel

theorem witness_Xall :
    (parsed b24).phase ≠ .idle ∧ GeometryOk (parsed b24) ∧ Memory.wf (parsed b24).scn = true ∧
    (parsed b24).sizes.wellFormed = true ∧ (parsed b24).scnLen.toNat ≤ (parsed b24).sizes.scn :=
  ⟨by decide, b24_geometry, by decide, by decide, by decide +kernel⟩

/-- T-X4, T-X5. -/
theorem witness_XallErrors :
    State.reset.phase = .idle ∧ (parsedScn b24 13).phase ≠ .idle ∧
    (parsedScn b24 13).sizes.scn < (parsedScn b24 13).scnLen.toNat := by decide +kernel

theorem witness_ChunkLayout : typePLTE.length = 4 ∧ ([1#8, 2#8, 3#8] : List Byte).length < 2 ^ 32 := by decide

theorem witness_Pngsig :
    (parsed b24).phase = .parsed ∧ Memory.wf (parsed b24).snk = true ∧ (parsed b24).sizes.wellFormed = true ∧
    (parsed b24).snkLen.toNat + 8 ≤ (parsed b24).sizes.snk := by decide

/-- T-F10: a sink of 33 bytes just holds signature and IHDR. -/
theorem witness_Ihdr :
    (smallSink b24 .sig 8 33).phase = .sig ∧ Memory.wf (smallSink b24 .sig 8 33).snk = true ∧
    (smallSink b24 .sig 8 33).sizes.wellFormed = true ∧ (smallSink b24 .sig 8 33).header.width ≠ 0#32 ∧
    (smallSink b24 .sig 8 33).header.height ≠ 0#32 ∧
    (smallSink b24 .sig 8 33).snkLen.toNat + 25 ≤ (smallSink b24 .sig 8 33).sizes.snk := by decide +kernel

theorem witness_Plte :
    (inPhase b1 .hdr 33).phase = .hdr ∧ (inPhase b1 .hdr 33).pal = true ∧ Memory.wf (inPhase b1 .hdr 33).snk = true ∧
    (inPhase b1 .hdr 33).sizes.wellFormed = true ∧ (inPhase b1 .hdr 33).header.palEntries.toNat ≤ 256 ∧
    (inPhase b1 .hdr 33).snkLen.toNat + 12 + 3 * (inPhase b1 .hdr 33).header.palEntries.toNat ≤
      (inPhase b1 .hdr 33).sizes.snk := by decide +kernel

/-- Both phases that admit IDAT. -/
theorem witness_Idat :
    ((inPhase b24 .hdr 33).phase = .hdr ∧ (inPhase b24 .hdr 33).pal = false) ∧ (inPhase b1 .plt 51).phase = .plt ∧
    Memory.wf (inPhase b24 .hdr 33).snk = true ∧ Memory.wf (inPhase b1 .plt 51).snk = true ∧
    (inPhase b24 .hdr 33).sizes.wellFormed = true ∧ (inPhase b1 .plt 51).sizes.wellFormed = true ∧
    (inPhase b24 .hdr 33).arg0.toNat + (inPhase b24 .hdr 33).arg1.toNat ≤ (inPhase b24 .hdr 33).sizes.pay ∧
    (inPhase b24 .hdr 33).snkLen.toNat + 12 + (inPhase b24 .hdr 33).arg1.toNat ≤ (inPhase b24 .hdr 33).sizes.snk := by
  decide +kernel

theorem witness_Iend :
    (inPhase b24 .dat 45).phase = .dat ∧ Memory.wf (inPhase b24 .dat 45).snk = true ∧
    (inPhase b24 .dat 45).sizes.wellFormed = true ∧
    (inPhase b24 .dat 45).snkLen.toNat + 12 ≤ (inPhase b24 .dat 45).sizes.snk := by decide +kernel

/-- T-F1, T-F2, T-F3, IDAT straight after IHDR of an indexed image, T-F6. -/
theorem witness_FramerSequence :
    State.reset.phase ≠ .parsed ∧ (parsed b24).phase ≠ .sig ∧
    ¬ ((inPhase b24 .hdr 33).phase = .hdr ∧ (inPhase b24 .hdr 33).pal = true) ∧
    ¬ (((inPhase b1 .hdr 33).phase = .hdr ∧ (inPhase b1 .hdr 33).pal = false) ∨ (inPhase b1 .hdr 33).phase = .plt) ∧
    (inPhase b24 .done 57).phase ≠ .dat := by decide +kernel

/-- T-F8, a zero width, T-F9, a full sink for each other chunk, T-F7: each sink is one byte short. -/
theorem witness_FramerOther :
    ((smallSink b24 .parsed 0 7).phase = .parsed ∧
      (smallSink b24 .parsed 0 7).sizes.snk < (smallSink b24 .parsed 0 7).snkLen.toNat + 8) ∧
    ({ State.reset with phase := .sig }.phase = .sig ∧ { State.reset with phase := .sig }.header.width = 0#32) ∧
    ((smallSink b24 .sig 8 32).phase = .sig ∧ (smallSink b24 .sig 8 32).header.width ≠ 0#32 ∧
      (smallSink b24 .sig 8 32).header.height ≠ 0#32 ∧
      (smallSink b24 .sig 8 32).sizes.snk < (smallSink b24 .sig 8 32).snkLen.toNat + 25) ∧
    ((smallSink b1 .hdr 33 50).phase = .hdr ∧ (smallSink b1 .hdr 33 50).pal = true ∧
      (smallSink b1 .hdr 33 50).header.palEntries.toNat ≤ 256 ∧
      (smallSink b1 .hdr 33 50).sizes.snk <
        (smallSink b1 .hdr 33 50).snkLen.toNat + 12 + 3 * (smallSink b1 .hdr 33 50).header.palEntries.toNat) ∧
    ((smallSink b24 .hdr 33 44).phase = .hdr ∧ (smallSink b24 .hdr 33 44).pal = false ∧
      (smallSink b24 .hdr 33 44).sizes.pay < (10#32).toNat + (7#32).toNat ∧
      (10#32).toNat + (6#32).toNat ≤ (smallSink b24 .hdr 33 44).sizes.pay ∧
      (smallSink b24 .hdr 33 44).sizes.snk < (smallSink b24 .hdr 33 44).snkLen.toNat + 12 + (6#32).toNat) ∧
    ((smallSink b24 .dat 45 56).phase = .dat ∧
      (smallSink b24 .dat 45 56).sizes.snk < (smallSink b24 .dat 45 56).snkLen.toNat + 12) := by decide +kernel

/-- A successful move of each kind, a command that raises, and RESET. -/
theorem witness_PhaseMoves :
    goesOn (exec .parse (withFile b24)) = true ∧ goesOn (exec .pngsig (parsed b24)) = true ∧
    goesOn (exec .ihdr (inPhase b24 .sig 8)) = true ∧ goesOn (exec .plte (inPhase b1 .hdr 33)) = true ∧
    goesOn (exec .idat (inPhase b24 .hdr 33)) = true ∧ goesOn (exec .iend (inPhase b24 .dat 45)) = true ∧
    goesOn (exec .xrow State.reset) = true ∧ goesOn (exec .reset (parsed b24)) = true := by decide +kernel

theorem witness_CommandsWriteOnly :
    goesOn (exec .xall (parsed b24)) = true ∧ goesOn (exec (.crcb 5#8) State.reset) = true ∧
    goesOn (exec .nop State.reset) = true := by decide +kernel

/-- A command about to be performed on a parsed image. -/
theorem witness_Invariants :
    MemoriesOk ((parsed b24).withCommand 0x00000021#32) ∧ HeaderOk ((parsed b24).withCommand 0x00000021#32) ∧
    Inv ((parsed b24).withCommand 0x00000021#32) ∧ goesOn (step ((parsed b24).withCommand 0x00000021#32)) = true := by
  have hm : MemoriesOk ((parsed b24).withCommand 0x00000021#32) := by
    intro sp
    have h := b24_memories sp
    cases sp <;> exact h
  have hh : HeaderOk ((parsed b24).withCommand 0x00000021#32) := by
    refine ⟨by decide, fun h => ?_, fun _ => ?_⟩
    · cases h
    · exact geometry_frame b24_geometry 4096 _
  refine ⟨hm, hh, ⟨hm, hh, ⟨by decide, fun h => ?_, [], rfl⟩, fun _ => rfl, fun f _ h => ?_⟩, by decide +kernel⟩
  · cases h
  · exact absurd rfl h

theorem witness_PowerOnInvariant :
    Config.vectorSizes.wellFormed = true ∧ MemoriesOk (State.powerOn Config.vectorSizes [] [] [] []) :=
  ⟨by decide, reset_memories⟩


end Sys2Proof.Tests
end

namespace Sys2Proof.Proofs

open Sys2Proof.Machine Sys2Proof.Laws

/-! ## The register map read backwards -/

/-- The registers before the palette file stand below 0x08C. -/
theorem named_offset_lt : ∀ r ∈ Reg.named, r.offset < 0x08C := by decide

/-- An aligned offset reaches a register only at that register's own offset (R16). -/
theorem offset_of_regAt {off : Nat} {r : Reg} (h4 : off % 4 = 0) (h : regAt off = some r) : r.offset = off := by
  unfold regAt at h
  split_ifs at h with hp
  · obtain rfl := Option.some.inj h
    simp only [Reg.offset, Fin.ofNat]
    omega
  · exact eq_of_beq (List.find?_some (p := fun r : Reg => r.offset == off) h)

theorem regAt_reserved {off : Nat} (h : ReservedOffset off) : regAt off = none := by
  obtain ⟨-, hoff⟩ := h
  unfold regAt
  rw [if_neg (by omega), List.find?_eq_none]
  intro r hr
  have := named_offset_lt r hr
  simp only [beq_iff_eq]
  omega

/-! ## Reads of the window -/

theorem regRead_offset (r : Reg) (s : State) : regRead r.offset s = r.read s := by
  simp only [regRead, regAt_offset]

theorem regRead_reserved {off : Nat} (h : ReservedOffset off) (s : State) : regRead off s = 0#32 := by
  simp only [regRead, regAt_reserved h]

/-- The table of R16, written in numbers, is what the named registers read at their offsets. -/
theorem registerTable_eq_map (s : State) : registerTable s = Reg.named.map (fun r => (r.offset, r.read s)) := rfl

theorem exists_reg_of_mem_registerTable {s : State} {p : Nat × Word} (h : p ∈ registerTable s) :
    ∃ r : Reg, p = (r.offset, r.read s) := by
  rw [registerTable_eq_map, List.mem_map] at h
  obtain ⟨r, -, hr⟩ := h
  exact ⟨r, hr.symm⟩

/-- With BUSY = 0, an aligned host read of the window answers the register there and changes nothing else. -/
theorem step_register_read {s : State} {rest : List Input} {off : Nat} (h : s.inFlight = none) (h4 : off % 4 = 0)
    (hlt : off < 0x1000) (hi : s.inputs = .read .b32 (BitVec.ofNat 32 off) :: rest) :
    step s = .next { s with inputs := rest, lastRead := regRead off s } :=
  step_host_read h hi (busAccess_reg h4 hlt)

/-- With BUSY = 0, a host read at a register's own offset answers that register. -/
theorem step_read_at_offset {s : State} {rest : List Input} (r : Reg) (h : s.inFlight = none)
    (hi : s.inputs = .read .b32 (BitVec.ofNat 32 r.offset) :: rest) :
    step s = .next { s with inputs := rest, lastRead := r.read s } := by
  obtain ⟨h4, hlt⟩ := offset_aligned r
  rw [step_register_read h h4 hlt hi, regRead_offset]

/-! ## Writes that have no effect -/

/-- Only CMD, ARG0, ARG1 and SRC_LEN are not read-only (the access column of R16). -/
theorem access_ro_of_offset {r : Reg} (h : r.offset ∉ [0x004, 0x00C, 0x010, 0x014]) : r.access = .ro := by
  cases r with
  | cmd | arg0 | arg1 | srcLen => exact absurd (by decide) h
  | _ => rfl

theorem write_of_access_ro {r : Reg} (h : r.access = .ro) (s : State) (v : Word) : r.write s v = s := by
  cases r with
  | cmd | arg0 | arg1 | srcLen => cases h
  | _ => rfl

/-- A write to an offset that holds no register, or a read-only one, is ignored (R17). -/
theorem regWrite_ignored {off : Nat} (h4 : off % 4 = 0) (hoff : off ∉ [0x004, 0x00C, 0x010, 0x014]) (v : Word)
    (s : State) : regWrite off v s = s := by
  unfold regWrite
  cases hr : regAt off with
  | none => rfl
  | some r =>
    obtain rfl := offset_of_regAt h4 hr
    exact write_of_access_ro (access_ro_of_offset hoff) s v

/-- With BUSY = 0, an aligned host write to the window does what `regWrite` says and is no bus error. -/
theorem step_register_write {s : State} {rest : List Input} {off : Nat} {v : Word} (h : s.inFlight = none)
    (h4 : off % 4 = 0) (hlt : off < 0x1000) (hi : s.inputs = .write .b32 (BitVec.ofNat 32 off) v :: rest) :
    step s = .next (regWrite off v { s with inputs := rest }) :=
  step_host_write h hi (busAccess_reg h4 hlt)

/-- Settles O18: reads go through the register that stands at the offset, and an offset outside CMD, ARG0, ARG1 and
SRC_LEN holds a read-only register or none. -/
theorem registerWindowReadsAndIgnoredWrites : Obligations.RegisterWindowReadsAndIgnoredWrites := by
  intro s rest v h
  refine ⟨fun p hp hi => ?table, fun k hi => ?palette, fun off hr hi => ?reserved, fun off h4 hlt hoff _ hi => ?write⟩
  case table =>
    obtain ⟨r, rfl⟩ := exists_reg_of_mem_registerTable hp
    exact step_read_at_offset r h hi
  case palette => exact step_read_at_offset (.palette k) h hi
  case reserved =>
    have ⟨h4, hrange⟩ := hr
    rw [step_register_read h h4 (by omega) hi, regRead_reserved hr]
  case write => rw [step_register_write h h4 hlt hi, regWrite_ignored h4 hoff]

end Sys2Proof.Proofs

namespace Sys2Proof.Proofs

open Sys2Proof.Machine

/-! ## NOP -/

/-- NOP has format I: its word is its OPC value 0x00 with zeros above (R56, R60). -/
theorem encode_nop : encode .nop = 0x00000000#32 := by decide

/-- NOP goes on in the state it was given, whatever that state is (R67). -/
theorem exec_nop (s : State) : exec .nop s = .next s := rfl

/-- Settles O28: the word of NOP is computed, and `exec` gives NOP the meaning `execNop`, the unchanged state. -/
theorem nopResult : Obligations.NopResult := ⟨encode_nop, exec_nop⟩

end Sys2Proof.Proofs

namespace Sys2Proof.Proofs

open Sys2Proof.Machine

/-! ## Row geometry (R70) -/

/-- The stride is the row's data rounded up to whole 32-bit words: rounding the bits up to bytes first loses nothing. -/
theorem rowStride_eq_roundUp (w d : Nat) : rowStride w d = (rowDataBytes w d + 3) / 4 * 4 := by
  unfold rowStride rowDataBytes
  omega

/-- The padding completes the last 32-bit word of the row. -/
theorem rowPadding_eq_mod (w d : Nat) : rowPadding w d = (4 - rowDataBytes w d % 4) % 4 := by
  rw [rowPadding, rowStride_eq_roundUp]
  omega

theorem rowDataBytes_add_rowPadding (w d : Nat) : rowDataBytes w d + rowPadding w d = rowStride w d := by
  rw [rowPadding_eq_mod, rowStride_eq_roundUp]
  omega

theorem rowPadding_le (w d : Nat) : rowPadding w d ≤ 3 := by
  rw [rowPadding_eq_mod]
  omega

theorem rowPadding_eq_zero_iff (w d : Nat) : rowPadding w d = 0 ↔ rowDataBytes w d % 4 = 0 := by
  rw [rowPadding_eq_mod]
  omega

/-- A row of whole bytes has no unused bits in its last byte. -/
theorem eight_mul_rowDataBytes {w d : Nat} (h : 8 ∣ w * d) : 8 * rowDataBytes w d = w * d := by
  unfold rowDataBytes
  omega

theorem rowPadding_eq_zero_iff_of_wholeBytes {w d : Nat} (h : 8 ∣ w * d) : rowPadding w d = 0 ↔ w * d % 32 = 0 := by
  rw [rowPadding_eq_zero_iff, ← eight_mul_rowDataBytes h]
  omega

/-- Settles O40: the padding is what rounds the data up to 32-bit words, and at 8 and 24 bits per pixel a row is whole
bytes. -/
theorem rowGeometry : Obligations.RowGeometry := by
  refine ⟨fun w d => ⟨rfl, rfl, rowDataBytes_add_rowPadding w d, rowPadding_le w d, rowPadding_eq_zero_iff w d, ?depths⟩,
    by decide⟩
  case depths =>
    intro hd
    have hbytes : 8 ∣ d := by omega
    exact rowPadding_eq_zero_iff_of_wholeBytes (hbytes.mul_left w)

end Sys2Proof.Proofs

namespace Sys2Proof.Proofs

open Sys2Proof.Machine Sys2Proof.Laws

/-! ## The words of the CRC commands (R56, R57, R58, R60) -/

theorem encode_crcinit : encode .crcinit = 0x00000030#32 := by decide

theorem encode_crcfin : encode .crcfin = 0x00000033#32 := by decide

/-- The zero byte below IMM8 and OPC are the low half of CRCB's word. -/
theorem encode_crcb (b : Byte) : encode (.crcb b) = 0x00#8 ++ b ++ 0x0031#16 :=
  (BitVec.append_assoc' (x₁ := 0x00#8 ++ b) (x₂ := 0x00#8) (x₃ := 0x31#8)).symm

theorem encode_crcupd_spaces : [Space.src, .scn, .pay, .snk].map (fun sp => encode (.crcupd sp)) =
    [0x00000032#32, 0x00000132#32, 0x00000232#32, 0x00000332#32] := by decide

/-! ## What the CRC commands answer -/

/-- CRCINIT goes on in every phase, and writes CRC_ACC only (R98). -/
theorem exec_crcinit (s : State) : exec .crcinit s = .next { s with crcAcc := 0xFFFFFFFF#32 } := rfl

/-- CRCB goes on in every phase and for every byte, and writes CRC_ACC only (R99). -/
theorem exec_crcb (b : Byte) (s : State) : exec (.crcb b) s = .next { s with crcAcc := crcByte s.crcAcc b } := rfl

/-- CRCFIN goes on in every phase, and writes CRC_RES only (R101). -/
theorem exec_crcfin (s : State) : exec .crcfin s = .next { s with crcRes := s.crcAcc ^^^ 0xFFFFFFFF#32 } := rfl

/-- Folding the bytes read from a range is folding over the range's offsets. -/
theorem crcAccum_readBytes (c : Word) (m : Memory) (a n : Nat) :
    crcAccum c (Memory.readBytes m a n) =
      (List.range n).foldl (fun c k => crcByte c (Memory.read m (a + k))) c := by
  rw [crcAccum, Memory.readBytes, List.foldl_map]

/-- CRCUPD on a range inside the space (R100). -/
theorem exec_crcupd_inside {s : State} {sp : Space} (h : s.arg0.toNat + s.arg1.toNat ≤ s.sizes.of sp) :
    exec (.crcupd sp) s =
      .next { s with crcAcc := crcAccum s.crcAcc (Memory.readBytes (s.mem sp) s.arg0.toNat s.arg1.toNat) } := by
  change execCrcupd sp s = _
  rw [execCrcupd, memRead_eq_some.mpr ⟨h, rfl⟩]
  rfl

/-- CRCUPD on a range that leaves the space (R100). -/
theorem exec_crcupd_outside {s : State} {sp : Space} (h : s.sizes.of sp < s.arg0.toNat + s.arg1.toNat) :
    exec (.crcupd sp) s = .next { s with err := some .rangeError, errCmd := encode (.crcupd sp) } := by
  change execCrcupd sp s = _
  rw [execCrcupd, memRead_eq_none.mpr h]
  rfl

/-! ## The bit steps are linear over XOR -/

/-- The bit dropped is linear, and two polynomials added cancel. -/
theorem crcBit_xor (c d : Word) : crcBit (c ^^^ d) = crcBit c ^^^ crcBit d := by
  have hcancel : (c >>> 1) ^^^ (d >>> 1) = ((c >>> 1) ^^^ crcPoly) ^^^ ((d >>> 1) ^^^ crcPoly) :=
    calc (c >>> 1) ^^^ (d >>> 1)
        = ((c >>> 1) ^^^ (d >>> 1)) ^^^ (crcPoly ^^^ crcPoly) := by rw [BitVec.xor_self, BitVec.xor_zero]
      _ = ((c >>> 1) ^^^ crcPoly) ^^^ ((d >>> 1) ^^^ crcPoly) := by ac_rfl
  simp only [crcBit, BitVec.getLsbD_xor, BitVec.ushiftRight_xor_distrib]
  cases c.getLsbD 0 <;> cases d.getLsbD 0
  case false.false => rfl
  case false.true => exact BitVec.xor_assoc _ _ _
  case true.false =>
    change (c >>> 1) ^^^ (d >>> 1) ^^^ crcPoly = (c >>> 1) ^^^ crcPoly ^^^ (d >>> 1)
    ac_rfl
  case true.true => exact hcancel

theorem crcBits_xor (n : Nat) (c d : Word) : crcBits n (c ^^^ d) = crcBits n c ^^^ crcBits n d := by
  induction n generalizing c d with
  | zero => rfl
  | succ n ih => simp only [crcBits, crcBit_xor, ih]

/-- While the bits dropped are 0, the bit steps only shift. -/
theorem crcBits_of_low_clear {n : Nat} {c : Word} (h : ∀ k < n, c.getLsbD k = false) : crcBits n c = c >>> n := by
  induction n generalizing c with
  | zero => rfl
  | succ n ih =>
    have hbit : crcBit c = c >>> 1 := by rw [crcBit, h 0 n.succ_pos, if_neg Bool.false_ne_true]
    have hlow : ∀ k < n, (c >>> 1).getLsbD k = false := fun k hk => by
      rw [BitVec.getLsbD_ushiftRight]
      exact h (1 + k) (by omega)
    rw [crcBits, hbit, ih hlow, ← BitVec.shiftRight_add, Nat.add_comm]

/-! ## The table form (R96) -/

theorem zeroExtend_byte_shiftRight (b : Byte) : b.zeroExtend 32 >>> 8 = 0#32 := by
  ext k
  simp

theorem crcByte_zero (b : Byte) : crcByte 0#32 b = crcBits 8 (b.zeroExtend 32) := by
  rw [crcByte, BitVec.zero_xor]

/-- Eight bit steps shift the upper 24 bits down and, by linearity, add what the low byte gives alone. -/
theorem crcBits_eight (x : Word) : crcBits 8 x = (x >>> 8) ^^^ crcByte 0#32 (x.extractLsb' 0 8) := by
  have hclear : ∀ k < 8, (x ^^^ (x.extractLsb' 0 8).zeroExtend 32).getLsbD k = false := fun k hk => by
    have : k < 32 := by omega
    simp [hk, this]
  calc crcBits 8 x
      = crcBits 8 (x ^^^ (x.extractLsb' 0 8).zeroExtend 32 ^^^ (x.extractLsb' 0 8).zeroExtend 32) := by
        rw [BitVec.xor_assoc, BitVec.xor_self, BitVec.xor_zero]
    _ = (x ^^^ (x.extractLsb' 0 8).zeroExtend 32) >>> 8 ^^^ crcByte 0#32 (x.extractLsb' 0 8) := by
        rw [crcBits_xor, crcBits_of_low_clear hclear, crcByte_zero]
    _ = (x >>> 8) ^^^ crcByte 0#32 (x.extractLsb' 0 8) := by
        rw [BitVec.ushiftRight_xor_distrib, zeroExtend_byte_shiftRight, BitVec.xor_zero]

/-- The table form of `crc_byte`: the byte folded in does not reach the upper 24 bits. -/
theorem crcByte_eq_crcByteByTable (c : Word) (b : Byte) : crcByte c b = crcByteByTable c b := by
  rw [crcByte, crcBits_eight, BitVec.ushiftRight_xor_distrib, zeroExtend_byte_shiftRight, BitVec.xor_zero]
  rfl

/-- Settles O33: the bit steps are linear over XOR, so the accumulator's upper bits only shift and its low byte indexes
the table. -/
theorem crcTableEqualsBitSerial : Obligations.CrcTableEqualsBitSerial :=
  ⟨crcByte_eq_crcByteByTable, by decide, by decide, by decide⟩

/-- Settles O31: the read of the range answers its bytes exactly when the exact sum is inside the space. -/
theorem crcupdResult : Obligations.CrcupdResult := by
  refine ⟨encode_crcupd_spaces, fun s sp => ⟨fun hin => ?_, exec_crcupd_outside⟩⟩
  rw [exec_crcupd_inside hin, crcAccum_readBytes]

/-- Settles O29: the word of CRCINIT is computed, and `exec` writes CRC_ACC alone. -/
theorem crcinitResult : Obligations.CrcinitResult := ⟨encode_crcinit, exec_crcinit⟩

/-- Settles O30: IMM8 stands in the word as R58 says, and `exec` folds it into CRC_ACC. -/
theorem crcbResult : Obligations.CrcbResult := fun s b => ⟨encode_crcb b, exec_crcb b s⟩

/-- Settles O32: the word of CRCFIN is computed, and `exec` writes CRC_RES alone. -/
theorem crcfinResult : Obligations.CrcfinResult := ⟨encode_crcfin, exec_crcfin⟩

end Sys2Proof.Proofs

namespace Sys2Proof.Proofs

open Sys2Proof.Machine Sys2Proof.Laws

/-! ## The layout of a chunk (R103) -/

/-- The bytes of a length that fits a register are its quotients by the powers of 256, highest first. -/
theorem be32_toReg {n : Nat} (h : n < 2 ^ 32) :
    be32 (toReg n) =
      [BitVec.ofNat 8 (n / 2 ^ 24), BitVec.ofNat 8 (n / 2 ^ 16), BitVec.ofNat 8 (n / 2 ^ 8), BitVec.ofNat 8 n] := by
  simp only [be32, BitVec.extractLsb', toReg_toNat h, Nat.shiftRight_eq_div_pow, pow_zero, Nat.div_one]

theorem take_frame (ty data : List Byte) : (frame ty data).take 4 = be32 (toReg data.length) := by
  unfold frame
  rw [List.append_assoc, List.append_assoc, List.take_left' (be32_length _)]

theorem drop_frame (ty data : List Byte) : (frame ty data).drop 4 = (ty ++ data) ++ be32 (crc32 (ty ++ data)) := by
  unfold frame chunkCrc
  rw [List.append_assoc, List.append_assoc, List.drop_left' (be32_length _), List.append_assoc]

/-- The length field, the fields that the CRC covers and the CRC stand one after another, so each is cut out of the
frame by the lengths of those before it. -/
theorem frame_fields (ty data : List Byte) :
    (frame ty data).take 4 = be32 (toReg data.length) ∧
    ((frame ty data).drop 4).take (ty.length + data.length) = ty ++ data ∧
    (frame ty data).drop (4 + ty.length + data.length) = be32 (crc32 (ty ++ data)) := by
  have hcovered : (ty ++ data).length = ty.length + data.length := List.length_append
  refine ⟨take_frame ty data, ?covered, ?crc⟩
  case covered => rw [drop_frame, List.take_left' hcovered]
  case crc => rw [Nat.add_assoc, ← List.drop_drop, drop_frame, List.drop_left' hcovered]

/-- Settles O46: the three cuts of the frame, at a type of four bytes and a length that its field holds. -/
theorem chunkLayout : Obligations.ChunkLayout := by
  intro ty data hty hlen
  obtain ⟨hfield, hcovered, hcrc⟩ := frame_fields ty data
  rw [hty] at hcovered hcrc
  refine ⟨?_, hfield.trans (be32_toReg hlen), hcovered, hcrc⟩
  rw [frame_length, hty]

end Sys2Proof.Proofs

namespace Sys2Proof.Proofs

open Sys2Proof.Machine Sys2Proof.Laws

/-! ## The word of a decoded command (R56, R61) -/

/-- A row of the opcode table either fixes every bit of its word or is the row of CRCB or of CRCUPD. -/
theorem opcodeRow_cases : ∀ r ∈ opcodeRows,
    (r.mask = BitVec.allOnes 32 ∧ encode (r.op.build r.pattern) = r.pattern) ∨
    r = { op := .crcb, mask := 0xFF00FFFF#32, pattern := 0x00000031#32 } ∨
    r = { op := .crcupd, mask := 0xFFFFFCFF#32, pattern := 0x00000032#32 } := by decide

/-- A word is its bytes 3, 2, 1, 0, one after another. -/
theorem eq_append_bytes (w : Word) :
    w.extractLsb' 24 8 ++ w.extractLsb' 16 8 ++ w.extractLsb' 8 8 ++ w.extractLsb' 0 8 = w := by
  rw [BitVec.extractLsb'_append_extractLsb'_eq_extractLsb' (by rfl),
    BitVec.extractLsb'_append_extractLsb'_eq_extractLsb' (by rfl),
    BitVec.extractLsb'_append_extractLsb'_eq_extractLsb' (by rfl)]
  exact BitVec.extractLsb'_eq_self

/-- A word is what stands above SPC, then SPC, then OPC. -/
theorem eq_append_spcField (w : Word) : w.extractLsb' 10 22 ++ spcField w ++ w.extractLsb' 0 8 = w := by
  rw [spcField, BitVec.extractLsb'_append_extractLsb'_eq_extractLsb' (by rfl),
    BitVec.extractLsb'_append_extractLsb'_eq_extractLsb' (by rfl)]
  exact BitVec.extractLsb'_eq_self

theorem code_ofCode : ∀ c : BitVec 2, (Space.ofCode c).code = c := by decide

/-- A row's pattern fixes every field that its mask covers. -/
theorem extractLsb'_eq_of_and_eq {w mask pattern : Word} (h : w &&& mask = pattern) (start len : Nat)
    (hmask : mask.extractLsb' start len = BitVec.allOnes len) :
    w.extractLsb' start len = pattern.extractLsb' start len := by
  rw [← h, BitVec.extractLsb'_and, hmask, BitVec.and_allOnes]

/-- A word of CRCB's row is zero everywhere but in OPC and IMM8. -/
theorem encode_crcb_imm8Field {w : Word} (h : w &&& 0xFF00FFFF#32 = 0x00000031#32) :
    encode (.crcb (imm8Field w)) = w :=
  calc encode (.crcb (imm8Field w))
      = w.extractLsb' 24 8 ++ w.extractLsb' 16 8 ++ w.extractLsb' 8 8 ++ w.extractLsb' 0 8 := by
        rw [extractLsb'_eq_of_and_eq h 24 8 (by decide), extractLsb'_eq_of_and_eq h 8 8 (by decide),
          extractLsb'_eq_of_and_eq h 0 8 (by decide)]
        rfl
    _ = w := eq_append_bytes w

/-- A word of CRCUPD's row is zero everywhere but in OPC and SPC. -/
theorem encode_crcupd_spcField {w : Word} (h : w &&& 0xFFFFFCFF#32 = 0x00000032#32) :
    encode (.crcupd (Space.ofCode (spcField w))) = w :=
  calc encode (.crcupd (Space.ofCode (spcField w)))
      = 0#22 ++ (Space.ofCode (spcField w)).code ++ 0x32#8 := rfl
    _ = w.extractLsb' 10 22 ++ spcField w ++ w.extractLsb' 0 8 := by
        rw [code_ofCode, extractLsb'_eq_of_and_eq h 10 22 (by decide), extractLsb'_eq_of_and_eq h 0 8 (by decide)]
        rfl
    _ = w := eq_append_spcField w

/-- The command built from a word that a row accepts has that word. -/
theorem encode_build {r : Row} {w : Word} (hr : r ∈ opcodeRows) (hw : r.accepts w = true) :
    encode (r.op.build w) = w := by
  have hbits : w &&& r.mask = r.pattern := eq_of_beq hw
  rcases opcodeRow_cases r hr with ⟨hmask, hpattern⟩ | rfl | rfl
  · rw [hmask, BitVec.and_allOnes] at hbits
    rw [hbits, hpattern]
  · exact encode_crcb_imm8Field hbits
  · exact encode_crcupd_spcField hbits

/-- A word that decodes is the word of the command it decodes to. -/
theorem encode_of_decode {w : Word} {i : Instr} (h : decode w = .instr i) : encode i = w := by
  unfold decode at h
  split at h
  · rename_i r hr
    injection h with h
    rw [← h]
    exact encode_build (List.mem_of_find?_eq_some hr) (List.find?_some (p := fun r : Row => r.accepts w) hr)
  · cases h

theorem encode_reset : encode .reset = 0x00000001#32 := by decide

theorem decode_encode_reset : decode (encode .reset) = .instr .reset := by decide

/-! ## What a command does to the error state (R120, R122) -/

/-- Everything a command can do to ERR, ERRCODE and ERR_CMD: the error entry with its own word on the state it was
given, RESET's clearing, or nothing. -/
theorem exec_error_cases {i : Instr} {s t : State} (h : exec i s = .next t) :
    (∃ e, t = s.raised e (encode i)) ∨ (i = .reset ∧ t = s.cleared) ∨ (t.err = s.err ∧ t.errCmd = s.errCmd) := by
  cases i with
  | nop => exact .inr (.inr (next_inj h ▸ ⟨rfl, rfl⟩))
  | reset => exact .inr (.inl ⟨rfl, next_inj h⟩)
  | parse => exact (execParse_cases h).imp_right fun ⟨_, _, ht⟩ => .inr (ht ▸ ⟨rfl, rfl⟩)
  | xrow =>
    refine (execXrow_cases h).imp_right fun ⟨_, _, hrow⟩ => .inr ?_
    obtain ⟨line, -, -, rfl⟩ := writeRow_eq_some.mp hrow
    exact ⟨rfl, rfl⟩
  | xall =>
    refine (execXall_cases h).imp_right fun ⟨_, _, hrows⟩ => .inr ?_
    rw [writeRows_frame hrows]
    exact ⟨rfl, rfl⟩
  | crcinit => exact .inr (.inr (next_inj h ▸ ⟨rfl, rfl⟩))
  | crcb b => exact .inr (.inr (next_inj h ▸ ⟨rfl, rfl⟩))
  | crcupd sp => exact (execCrcupd_cases h).imp_right fun ⟨_, ht⟩ => .inr (ht ▸ ⟨rfl, rfl⟩)
  | crcfin => exact .inr (.inr (next_inj h ▸ ⟨rfl, rfl⟩))
  | pngsig => exact (execPngsig_cases h).imp_right fun ⟨_, _, ht⟩ => .inr (ht ▸ ⟨rfl, rfl⟩)
  | ihdr => exact (execIhdr_cases h).imp_right fun ⟨_, _, ht⟩ => .inr (ht ▸ ⟨rfl, rfl⟩)
  | plte => exact (execPlte_cases h).imp_right fun ⟨_, _, _, _, ht⟩ => .inr (ht ▸ ⟨rfl, rfl⟩)
  | idat => exact (execIdat_cases h).imp_right fun ⟨_, _, _, _, _, ht⟩ => .inr (ht ▸ ⟨rfl, rfl⟩)
  | iend => exact (execIend_cases h).imp_right fun ⟨_, _, ht⟩ => .inr (ht ▸ ⟨rfl, rfl⟩)

/-- An error that appears when a command is performed was raised by it, with its word, on the state with BUSY fallen. -/
theorem engineStep_raised {w : Word} {s t : State} {e : ErrCode} (hs : s.err = none)
    (h : engineStep w s = .next t) (ht : t.err = some e) : t = s.retire.raised e w := by
  have hraised : ∀ e', t = s.retire.raised e' w → t = s.retire.raised e w := by
    rintro e' rfl
    rw [raised_err] at ht
    rw [Option.some.inj ht]
  rcases engineStep_cases w s with ⟨i, hi, hexec⟩ | ⟨-, -, hillegal⟩
  · rw [hexec] at h
    rcases exec_error_cases h with ⟨e', he⟩ | ⟨-, rfl⟩ | ⟨hkept, -⟩
    · exact hraised e' (encode_of_decode hi ▸ he)
    · cases ht
    · rw [hkept, retire_err, hs] at ht
      cases ht
  · exact hraised _ (next_inj (hillegal ▸ h))

/-- The RESET command, performed. -/
theorem engineStep_reset (s : State) : engineStep (encode .reset) s = .next s.retire.cleared := by
  unfold engineStep
  rw [decode_encode_reset]
  rfl

/-! ## What the host does to the error state (R121, R122) -/

/-- A host write to a register keeps ERR, ERRCODE and ERR_CMD. -/
theorem regWrite_keeps_error (off : Nat) (v : Word) (s : State) :
    (regWrite off v s).err = s.err ∧ (regWrite off v s).errCmd = s.errCmd := by
  rcases regWrite_cases off v s with h | h | h | h | ⟨-, h⟩ <;> rw [h] <;> exact ⟨rfl, rfl⟩

/-- A host move is power-on, or keeps ERR, ERRCODE and ERR_CMD. -/
theorem hostMove_error_cases {s t : State} (h : hostMove s = .next t) :
    (t.err = s.err ∧ t.errCmd = s.errCmd) ∨
    ∃ c rest, s.inputs = .powerOn c :: rest ∧ t = (s.setInputs rest).repowered c := by
  rcases hostMove_cases h with ⟨l, v, rfl⟩ | hpower | ⟨-, l, off, v, rfl⟩ | ⟨l, sp, a, width, v, -, -, rfl⟩
  · exact .inl ⟨rfl, rfl⟩
  · exact .inr hpower
  · exact .inl (regWrite_keeps_error off v _)
  · exact .inl ⟨setMem_err _ _ _, setMem_errCmd _ _ _⟩

/-! ## A dropped command word (R121) -/

theorem regWrite_offset (r : Reg) (v : Word) (s : State) : regWrite r.offset v s = r.write s v := by
  simp only [regWrite, regAt_offset]

/-- With an error held, every word but RESET's is dropped. -/
theorem drops_of_error {s : State} {w : Word} (he : s.err ≠ none) (hw : w ≠ encode .reset) : s.drops w = true := by
  rw [State.drops, Bool.and_eq_true, bne_iff_ne]
  exact ⟨Option.isSome_iff_ne_none.mpr he, hw⟩

/-- A write of a dropped word to CMD changes nothing. -/
theorem write_cmd_dropped {s : State} {w : Word} (h : s.drops w = true) : Reg.write s w .cmd = s := if_pos h

/-! ## The obligations on errors (60_exceptions.md) -/

/-- Settles O12: only RESET can be in flight while an error is held, and RESET clears; of the host's moves only power-on
does not keep the error, and power-on clears. -/
theorem stickyErrorHoldsUntilReset : Obligations.StickyErrorHoldsUntilReset := by
  rintro s t ⟨-, honlyReset⟩ he h
  rcases step_cases s with ⟨f, hf, -, hstep⟩ | ⟨o, -, -, hstep⟩ <;> rw [hstep] at h
  · have hword : f.word = encode .reset := honlyReset f hf he
    rw [hword, engineStep_reset] at h
    obtain rfl := next_inj h
    exact .inr ⟨cleared_err _, cleared_errCmd _, cleared_phase _, .inl ⟨f, hf, hword.trans encode_reset⟩⟩
  · rcases hostMove_error_cases h with hkept | ⟨c, rest, hinput, rfl⟩
    · exact .inl hkept
    · exact .inr ⟨repowered_err _ _, repowered_errCmd _ _, repowered_phase _ _, .inr ⟨c, rest, hinput⟩⟩

/-- Settles O13: the step of a due command is the engine's, and what the engine raises is the error entry on the state
with BUSY fallen. -/
theorem errorsArePrecise : Obligations.ErrorsArePrecise := by
  intro s t f e hs hf hwait h ht
  rw [step_of_due hf hwait] at h
  exact engineStep_raised hs h ht

/-- Settles O11: the write reaches CMD, where an error held drops the word. -/
theorem stickyErrorDropsOtherCommands : Obligations.StickyErrorDropsOtherCommands := by
  intro s w rest hidle he hw hi
  obtain ⟨h4, hlt⟩ := offset_aligned .cmd
  have hdropped : ({ s with inputs := rest }).drops w = true := drops_of_error he (encode_reset ▸ hw)
  rw [step_register_write hidle h4 hlt hi, regWrite_offset, write_cmd_dropped hdropped]

end Sys2Proof.Proofs

namespace Sys2Proof.Proofs

open Sys2Proof.Machine

/-! ## The opcode table decides every word (R56, R61, R62) -/

/-- Every row's mask covers OPC. -/
theorem mask_covers_opc : ∀ r ∈ opcodeRows, r.mask.extractLsb' 0 8 = BitVec.allOnes 8 := by decide

/-- The rows have different OPC values (R60). -/
theorem row_eq_of_opcField_pattern : ∀ r ∈ opcodeRows, ∀ r' ∈ opcodeRows,
    opcField r.pattern = opcField r'.pattern → r = r' := by decide

theorem opcField_of_accepts {r : Row} {w : Word} (hr : r ∈ opcodeRows) (hw : r.accepts w = true) :
    opcField w = opcField r.pattern :=
  extractLsb'_eq_of_and_eq (eq_of_beq hw) 0 8 (mask_covers_opc r hr)

/-- Settles O3: a row fixes OPC, and OPC names the row. -/
theorem noTwoRowsShareAWord : Obligations.NoTwoRowsShareAWord := fun r hr r' hr' _ hw hw' =>
  row_eq_of_opcField_pattern r hr r' hr' ((opcField_of_accepts hr hw).symm.trans (opcField_of_accepts hr' hw'))

/-- The row that accepts a word is the one that decodes it. -/
theorem decode_of_accepts {r : Row} {w : Word} (hr : r ∈ opcodeRows) (hw : r.accepts w = true) :
    decode w = .instr (r.op.build w) := by
  obtain ⟨r', hfind⟩ := Option.isSome_iff_exists.mp
    (List.find?_isSome (p := fun r : Row => r.accepts w).mpr ⟨r, hr, hw⟩)
  have hr' : r' = r := noTwoRowsShareAWord r' (List.mem_of_find?_eq_some hfind) r hr w
    (List.find?_some (p := fun r : Row => r.accepts w) hfind) hw
  rw [decode, hfind, hr']

/-! ## The fields of a command's word -/

theorem encode_crcb_accepted (b : Byte) : encode (.crcb b) &&& 0xFF00FFFF#32 = 0x00000031#32 := by
  change (0#8 ++ b ++ 0#8 ++ 0x31#8) &&& (0xFF#8 ++ 0x00#8 ++ 0xFF#8 ++ 0xFF#8) = 0#8 ++ 0#8 ++ 0#8 ++ 0x31#8
  rw [BitVec.and_append, BitVec.and_append, BitVec.and_append, BitVec.and_zero]
  rfl

theorem imm8Field_encode_crcb (b : Byte) : imm8Field (encode (.crcb b)) = b := by
  calc (0#8 ++ b ++ 0#8 ++ 0x31#8).extractLsb' 16 8
      = (0#8 ++ b ++ 0#8).extractLsb' 8 8 := BitVec.extractLsb'_append_eq_of_le (by decide)
    _ = (0#8 ++ b).extractLsb' 0 8 := BitVec.extractLsb'_append_eq_of_le (by decide)
    _ = b := by rw [BitVec.extractLsb'_append_eq_of_add_le (by decide), BitVec.extractLsb'_eq_self]

/-- Settles O1: only CRCB and CRCUPD have operands; IMM8 is a field of the word that its row leaves free, and SPC has
four values. -/
theorem decodeOfEncodeIsTheCommand : Obligations.DecodeOfEncodeIsTheCommand := by
  intro i _
  cases i with
  | crcb b =>
    rw [decode_of_accepts (r := { op := .crcb, mask := 0xFF00FFFF#32, pattern := 0x00000031#32 }) (by decide)
      (beq_iff_eq.mpr (encode_crcb_accepted b))]
    exact congrArg (fun b => Decoded.instr (.crcb b)) (imm8Field_encode_crcb b)
  | crcupd sp => cases sp <;> decide
  | _ => decide

/-- Settles O2: the fields of the row that accepts a word make up the word. -/
theorem encodeOfDecodedIsTheWord : Obligations.EncodeOfDecodedIsTheWord := fun _ _ h => encode_of_decode h

/-- The words that decode are the words of the commands. -/
theorem exists_illegal_iff (w : Word) : (∃ why, decode w = .illegal why) ↔ ¬ ∃ i, encode i = w := by
  constructor
  · rintro ⟨why, hwhy⟩ ⟨i, rfl⟩
    rw [decodeOfEncodeIsTheCommand i (by cases i <;> rfl)] at hwhy
    cases hwhy
  · intro h
    cases hd : decode w with
    | illegal why => exact ⟨why, rfl⟩
    | instr i => exact absurd ⟨i, encode_of_decode hd⟩ h

/-- A word is what stands above OPC, then OPC. -/
theorem eq_append_opcField (w : Word) : w.extractLsb' 8 24 ++ w.extractLsb' 0 8 = w := by
  rw [BitVec.extractLsb'_append_extractLsb'_eq_extractLsb' (by rfl)]
  exact BitVec.extractLsb'_eq_self

/-- The commands of format N are those of the twelve OPC values without operands (R56, R60). -/
theorem exists_formatN : ∀ opc ∈ [0x00#8, 0x01#8, 0x10#8, 0x20#8, 0x21#8, 0x30#8, 0x33#8, 0x40#8, 0x41#8, 0x42#8,
    0x43#8, 0x44#8], ∃ i, encode i = 0#24 ++ opc := by
  simp only [List.forall_mem_cons, List.not_mem_nil, false_implies, implies_true, and_true]
  exact ⟨⟨.nop, rfl⟩, ⟨.reset, rfl⟩, ⟨.parse, rfl⟩, ⟨.xrow, rfl⟩, ⟨.xall, rfl⟩, ⟨.crcinit, rfl⟩, ⟨.crcfin, rfl⟩,
    ⟨.pngsig, rfl⟩, ⟨.ihdr, rfl⟩, ⟨.plte, rfl⟩, ⟨.idat, rfl⟩, ⟨.iend, rfl⟩⟩

/-- The three formats of R56, by their bits. -/
def InFormat (w : Word) : Prop :=
  (w.extractLsb' 0 8 ∈ [0x00#8, 0x01#8, 0x10#8, 0x20#8, 0x21#8, 0x30#8, 0x33#8, 0x40#8, 0x41#8, 0x42#8, 0x43#8,
      0x44#8] ∧ w.extractLsb' 8 24 = 0#24) ∨
  (w.extractLsb' 0 8 = 0x31#8 ∧ w.extractLsb' 8 8 = 0#8 ∧ w.extractLsb' 24 8 = 0#8) ∨
  (w.extractLsb' 0 8 = 0x32#8 ∧ w.extractLsb' 10 22 = 0#22)

theorem encode_inFormat (i : Instr) : InFormat (encode i) := by
  cases i with
  | crcb b =>
    have hfixed := extractLsb'_eq_of_and_eq (encode_crcb_accepted b)
    exact .inr (.inl ⟨hfixed 0 8 (by decide), hfixed 8 8 (by decide), hfixed 24 8 (by decide)⟩)
  | crcupd sp => exact .inr (.inr (by cases sp <;> decide))
  | _ => exact .inl (by decide)

theorem exists_encode_iff_inFormat (w : Word) : (∃ i, encode i = w) ↔ InFormat w := by
  constructor
  · rintro ⟨i, rfl⟩
    exact encode_inFormat i
  · rintro (⟨hopc, hzero⟩ | ⟨hopc, hmid, htop⟩ | ⟨hopc, hzero⟩)
    · rw [← eq_append_opcField w, hzero]
      exact exists_formatN _ hopc
    · refine ⟨.crcb (imm8Field w), ?_⟩
      conv_rhs => rw [← eq_append_bytes w, htop, hmid, hopc]
      rfl
    · refine ⟨.crcupd (Space.ofCode (spcField w)), ?_⟩
      conv_rhs => rw [← eq_append_spcField w, hzero, hopc, ← code_ofCode (spcField w)]
      rfl

/-- Settles O4: the illegal words are those of no command, and the words of the commands are those of the formats. -/
theorem illegalWordsAreThoseOfNoFormat : Obligations.IllegalWordsAreThoseOfNoFormat := fun w =>
  (exists_illegal_iff w).trans (not_congr (exists_encode_iff_inFormat w))

/-- Settles O5: each word is looked up in the table. -/
theorem specWordsDecode : Obligations.SpecWordsDecode := by
  unfold Obligations.SpecWordsDecode
  decide

end Sys2Proof.Proofs

namespace Sys2Proof.Proofs

open Sys2Proof.Machine Sys2Proof.Laws

/-! ## What a command that raises no error does -/

/-- `Emits s i bs p`: the framer command `i` may run in `s`, appends `bs` to the stream and moves PHASE to `p` (R107,
R112 to R116 of 44_png_framer.md). -/
inductive Emits (s : State) : Instr → List Byte → Phase → Prop where
  | pngsig (hp : s.phase = .parsed) : Emits s .pngsig pngSignature .sig
  | ihdr (hp : s.phase = .sig) : Emits s .ihdr (frame typeIHDR (ihdrBody s.header)) .hdr
  | plte (hp : s.phase = .hdr) (hpal : s.pal = true) : Emits s .plte (frame typePLTE (paletteBody s)) .plt
  | idat (hp : (s.phase = .hdr ∧ s.pal = false) ∨ s.phase = .plt) (body : List Byte) :
      Emits s .idat (frame typeIDAT body) .dat
  | iend (hp : s.phase = .dat) : Emits s .iend iendChunk .done

/-- `Completes s i t`: the command `i`, performed in `s` without an error, leaves `t`. -/
inductive Completes (s : State) : Instr → State → Prop where
  | nop : Completes s .nop s
  | reset : Completes s .reset s.cleared
  | parse (hp : s.phase = .idle) (hchecks : parseError s.sizes.src s.srcLen.toNat s.src = none) :
      Completes s .parse s.committed
  | transcode {i : Instr} (hi : i = .xrow ∨ i = .xall) {rows : List Nat} {t : State}
      (hrows : writeRows rows s = some t) : Completes s i t
  | fold {i : Instr} (hi : i = .crcinit ∨ (∃ b, i = .crcb b) ∨ ∃ sp, i = .crcupd sp) (v : Word) :
      Completes s i (s.setCrcAcc v)
  | crcfin : Completes s .crcfin (s.setCrcRes (s.crcAcc ^^^ crcOnes))
  | emit {i : Instr} {bs : List Byte} {p : Phase} (crc : Word) (hemits : Emits s i bs p)
      (hfit : s.snkLen.toNat + bs.length ≤ s.sizes.snk) (hcrc : i = .pngsig → crc = s.lastCrc) :
      Completes s i { s with snk := Memory.writeBytes s.snk s.snkLen.toNat bs,
                             snkLen := toReg (s.snkLen.toNat + bs.length), lastCrc := crc, phase := p }

theorem writeRows_singleton (i : Nat) (s : State) : writeRows [i] s = writeRow i s := by
  simp only [writeRows]
  cases writeRow i s <;> rfl

/-- Everything a command can do when it answers a next state: the error entry with its own word, or its effect. -/
theorem exec_completes {i : Instr} {s t : State} (h : exec i s = .next t) :
    (∃ e, t = s.raised e (encode i)) ∨ Completes s i t := by
  cases i with
  | nop => exact .inr (next_inj h ▸ .nop)
  | reset => exact .inr (next_inj h ▸ .reset)
  | parse => exact (execParse_cases h).imp_right fun ⟨hp, hchecks, ht⟩ => ht ▸ .parse hp hchecks
  | xrow =>
    exact (execXrow_cases h).imp_right fun ⟨_, _, hrow⟩ =>
      .transcode (.inl rfl) ((writeRows_singleton _ _).trans hrow)
  | xall => exact (execXall_cases h).imp_right fun ⟨_, _, hrows⟩ => .transcode (.inr rfl) hrows
  | crcinit => exact .inr (next_inj h ▸ .fold (.inl rfl) _)
  | crcb b => exact .inr (next_inj h ▸ .fold (.inr (.inl ⟨b, rfl⟩)) _)
  | crcupd sp => exact (execCrcupd_cases h).imp_right fun ⟨_, ht⟩ => ht ▸ .fold (.inr (.inr ⟨sp, rfl⟩)) _
  | crcfin => exact .inr (next_inj h ▸ .crcfin)
  | pngsig =>
    exact (execPngsig_cases h).imp_right fun ⟨hp, hfit, ht⟩ =>
      ht ▸ .emit (bs := pngSignature) s.lastCrc (.pngsig hp) hfit (fun _ => rfl)
  | ihdr =>
    exact (execIhdr_cases h).imp_right fun ⟨hp, hfit, ht⟩ =>
      ht ▸ .emit (bs := frame typeIHDR (ihdrBody s.header)) _ (.ihdr hp) hfit nofun
  | plte => exact (execPlte_cases h).imp_right fun ⟨hp, hpal, _, hfit, ht⟩ => ht ▸ .emit _ (.plte hp hpal) hfit nofun
  | idat => exact (execIdat_cases h).imp_right fun ⟨hp, _, body, _, hfit, ht⟩ => ht ▸ .emit _ (.idat hp body) hfit nofun
  | iend =>
    exact (execIend_cases h).imp_right fun ⟨hp, hfit, ht⟩ => ht ▸ .emit (bs := iendChunk) _ (.iend hp) hfit nofun

/-- Settles O54: of the effects without an error only RESET, PARSE and the framer write PHASE. -/
theorem phaseMovesOnlyByItsCommands : Obligations.PhaseMovesOnlyByItsCommands := by
  intro i s t h
  rcases exec_completes h with ⟨e, rfl⟩ | hdone
  · exact .inl rfl
  · cases hdone with
    | nop | fold | crcfin => exact .inl rfl
    | reset => exact .inr (.inl ⟨rfl, rfl⟩)
    | parse hp => exact .inr (.inr ⟨rfl, .inl ⟨rfl, hp, rfl⟩⟩)
    | transcode _ hrows =>
      rw [writeRows_frame hrows]
      exact .inl rfl
    | emit _ hemits =>
      refine .inr (.inr ⟨rfl, ?_⟩)
      cases hemits with
      | pngsig hp => exact .inr (.inl ⟨rfl, hp, rfl⟩)
      | ihdr hp => exact .inr (.inr (.inl ⟨rfl, hp, rfl⟩))
      | plte hp hpal => exact .inr (.inr (.inr (.inl ⟨rfl, hp, hpal, rfl⟩)))
      | idat hp => exact .inr (.inr (.inr (.inr (.inl ⟨rfl, hp, rfl⟩))))
      | iend hp => exact .inr (.inr (.inr (.inr (.inr ⟨rfl, hp, rfl⟩))))

/-- Settles O55: each effect is an update of the fields it names. -/
theorem commandsWriteOnlyWhatTheyMay : Obligations.CommandsWriteOnlyWhatTheyMay := by
  intro i s t h
  rcases exec_completes h with ⟨e, rfl⟩ | hdone
  · simp
  · cases hdone with
    | nop | reset | parse | crcfin => simp
    | transcode hi hrows =>
      rw [writeRows_frame hrows]
      rcases hi with rfl | rfl <;> simp
    | fold hi => rcases hi with rfl | ⟨b, rfl⟩ | ⟨sp, rfl⟩ <;> simp
    | emit _ hemits _ hcrc => cases hemits <;> simp_all

/-! ## What the host does to the machine -/

/-- What a host write to a register can change. -/
theorem regWrite_frame (off : Nat) (v : Word) (s : State) : ∃ a0 a1 len f d,
    regWrite off v s = { s with arg0 := a0, arg1 := a1, srcLen := len, inFlight := f, delays := d } := by
  rcases regWrite_cases off v s with h | h | h | h | ⟨-, h⟩ <;> exact ⟨_, _, _, _, _, h⟩

/-- The host's registers and the outside do not enter the property, and power-on, the host's stores, the error entry and
the effects of the commands keep it. -/
structure KeptByEffects (P : State → Prop) : Prop where
  outside : ∀ s a0 a1 len f d l v, P s → P { s with
    arg0 := a0, arg1 := a1, srcLen := len, inFlight := f, delays := d, inputs := l, lastRead := v }
  power : ∀ s c, P s → P (s.repowered c)
  store : ∀ s sp a bs, hostWritable sp = true → a + bs.length ≤ s.sizes.of sp → P s →
    P (s.setMem sp (Memory.writeBytes (s.mem sp) a bs))
  raise : ∀ s e w, P s → P (s.raised e w)
  done : ∀ i s t, Completes s i t → P s → P t

/-- Such a property is kept by every step that answers a next state. -/
theorem step_keeps {P : State → Prop} (hP : KeptByEffects P) {s t : State} (hs : P s) (h : step s = .next t) : P t := by
  rcases step_cases s with ⟨f, -, -, hstep⟩ | ⟨o, -, -, hstep⟩ <;> rw [hstep] at h
  · have hretired : P s.retire := hP.outside s _ _ _ _ _ _ _ hs
    rcases engineStep_cases f.word s with ⟨i, -, hexec⟩ | ⟨-, -, hillegal⟩
    · rcases exec_completes (hexec ▸ h) with ⟨e, rfl⟩ | hc
      · exact hP.raise _ _ _ hretired
      · exact hP.done _ _ _ hc hretired
    · obtain rfl := next_inj (hillegal ▸ h)
      exact hP.raise _ _ _ hretired
  · rcases hostMove_cases h with
      ⟨l, v, rfl⟩ | ⟨c, rest, -, rfl⟩ | ⟨-, l, off, v, rfl⟩ | ⟨l, sp, a, width, v, hw, hfit, rfl⟩
    · exact hP.outside s _ _ _ _ _ _ _ hs
    · exact hP.power _ c (hP.outside s _ _ _ _ _ _ _ hs)
    · obtain ⟨a0, a1, len, f, d, hwrite⟩ := regWrite_frame off v { s with inFlight := o, inputs := l }
      rw [hwrite]
      exact hP.outside s _ _ _ _ _ _ _ hs
    · have hkept := hP.store { s with inFlight := o, inputs := l } sp a (writtenBytes width v) hw hfit
        (hP.outside s _ _ _ _ _ _ _ hs)
      cases sp <;> exact hkept

/-! ## The memories -/

theorem memoriesOk_powerOn (z : Sizes) (c : Draw) : MemoriesOk (State.powerOn z (Memory.ofBytes z.src c.src)
    (Memory.ofBytes z.scn c.scn) (Memory.ofBytes z.pay c.pay) (Memory.ofBytes z.snk c.snk)) := by
  intro sp
  cases sp <;> exact ⟨ofBytes_wf _ _, ofBytes_within _ _⟩

/-- The sizes and the four memories are all that the canonical form speaks of. -/
theorem memoriesOk_congr {s t : State} (hs : MemoriesOk s) (hsizes : t.sizes = s.sizes) (hsrc : t.src = s.src)
    (hscn : t.scn = s.scn) (hpay : t.pay = s.pay) (hsnk : t.snk = s.snk) : MemoriesOk t := by
  have hmem : ∀ sp, t.mem sp = s.mem sp := fun sp => by cases sp <;> assumption
  intro sp
  rw [hmem sp, hsizes]
  exact hs sp

theorem memoriesOk_setMem {s : State} {sp : Space} {m : Memory} (hs : MemoriesOk s)
    (hm : Memory.wf m = true ∧ Memory.within (s.sizes.of sp) m = true) : MemoriesOk (s.setMem sp m) := by
  intro sp'
  rw [setMem_sizes]
  by_cases heq : sp' = sp
  · rw [heq, setMem_mem_self]
    exact hm
  · rw [setMem_mem_other s m heq]
    exact hs sp'

theorem memoriesOk_store {s : State} {sp : Space} {a : Nat} {bs : List Byte} (hs : MemoriesOk s)
    (hfit : a + bs.length ≤ s.sizes.of sp) : MemoriesOk (s.setMem sp (Memory.writeBytes (s.mem sp) a bs)) :=
  memoriesOk_setMem hs ⟨writeBytes_wf (hs sp).1 _ _, writeBytes_within (hs sp).2 hfit⟩

theorem memoriesOk_of_completes {i : Instr} {s t : State} (h : Completes s i t) (hs : MemoriesOk s) : MemoriesOk t := by
  cases h with
  | nop | reset | parse | fold | crcfin => exact memoriesOk_congr hs rfl rfl rfl rfl rfl
  | transcode _ hrows =>
    rw [writeRows_frame hrows]
    exact memoriesOk_setMem (sp := .scn) hs (writeRows_scn_ok hrows (hs .scn))
  | emit _ _ hfit =>
    exact memoriesOk_congr (memoriesOk_store (sp := .snk) hs hfit) rfl rfl rfl rfl rfl

theorem memoriesOk_kept : KeptByEffects MemoriesOk where
  outside _ _ _ _ _ _ _ _ hs := memoriesOk_congr hs rfl rfl rfl rfl rfl
  power s c _ := memoriesOk_congr (memoriesOk_powerOn s.sizes c) rfl rfl rfl rfl rfl
  store _ _ _ _ _ hfit hs := memoriesOk_store hs hfit
  raise _ _ _ hs := memoriesOk_congr hs rfl rfl rfl rfl rfl
  done _ _ _ hc hs := memoriesOk_of_completes hc hs

/-- Settles O56: the stores of the host and of the engine stay inside the space, and no other effect writes a memory but
power-on, which fills each up to its size. -/
theorem everyStepKeepsMemoriesCanonical : Obligations.EveryStepKeepsMemoriesCanonical := fun _ _ =>
  step_keeps memoriesOk_kept

end Sys2Proof.Proofs

namespace Sys2Proof.Proofs

open Sys2Proof.Machine Sys2Proof.Laws

/-! ## The checks of PARSE, as one list (R73, R124) -/

/-- The number of palette entries that the checks of an indexed depth count (R71). -/
theorem bmpPalEntries_indexed {m : Memory} (h : bmpBpp m ≤ 8) :
    bmpPalEntries m = if bmpPalCount m ≠ 0 then bmpPalCount m else 2 ^ bmpBpp m := if_pos h

theorem bmpPalEntries_truecolour {m : Memory} (h : ¬ bmpBpp m ≤ 8) : bmpPalEntries m = 0 := if_neg h

theorem bppAdmitted_iff (d : Nat) : bppAdmitted d = true ↔ d ∈ [1, 2, 4, 8, 24] := by
  simp [bppAdmitted, or_assoc]

@[simp] theorem firstFailing_cons (b : Bool) (e : ErrCode) (l : List (Bool × ErrCode)) :
    firstFailing ((b, e) :: l) = if b then some e else firstFailing l := rfl

/-- The checks after those of the palette go on from it (R73). -/
theorem infoError_eq (len : Nat) (m : Memory) : infoError len m =
    if bmpCompression m ≠ 0 then some .unsupportedCompression
    else if bppAdmitted (bmpBpp m) = false then some .unsupportedHeader
    else if bmpHeight m < 0 then some .unsupportedHeader
    else if bmpWidth m ≤ 0 ∨ bmpHeight m = 0 then some .invalidDimensions
    else if bmpPixOff m < 14 + bmpHdrSize m then some .unsupportedHeader
    else (paletteError len m).or (if len < bmpPixEnd m then some .truncatedData else none) := by
  unfold infoError
  cases paletteError len m <;> rfl

/-- The palette checks as the three entries of the list, each for indexed depths only (R80). -/
theorem paletteError_or (len : Nat) (m : Memory) (next : Option ErrCode) :
    (paletteError len m).or next =
      if bmpBpp m ≤ 8 ∧ 2 ^ bmpBpp m < bmpPalEntries m then some .invalidPalette
      else if bmpBpp m ≤ 8 ∧ len < bmpPalEnd m then some .truncatedData
      else if bmpBpp m ≤ 8 ∧ bmpPixOff m < bmpPalEnd m then some .invalidPalette
      else next := by
  unfold paletteError
  by_cases h : bmpBpp m ≤ 8
  · simp only [h, Nat.not_lt_of_le h, if_false, true_and]
    split_ifs <;> rfl
  · simp [h, Nat.lt_of_not_le h]

/-- The first check of R73 that fails is the phase check or the first that `parseError` finds. -/
theorem firstFailing_parseChecks (s : State) : firstFailing (parseChecks s) =
    if s.phase ≠ .idle then some .sequenceError else parseError s.sizes.src s.srcLen.toNat s.src := by
  have hindexed (p : Nat → Prop) : (bmpBpp s.src ≤ 8 ∧ p (bmpPalEntries s.src)) =
      (bmpBpp s.src ≤ 8 ∧ p (if bmpPalCount s.src ≠ 0 then bmpPalCount s.src else 2 ^ bmpBpp s.src)) :=
    propext (and_congr_right fun h => by rw [bmpPalEntries_indexed h])
  have hadmitted : (bppAdmitted (bmpBpp s.src) = false) = (bmpBpp s.src ∉ [1, 2, 4, 8, 24]) := by
    rw [← bppAdmitted_iff, Bool.not_eq_true]
  simp only [parseError, infoError_eq, paletteError_or, bmpPalEnd, hindexed (2 ^ bmpBpp s.src < ·),
    hindexed (s.srcLen.toNat < bmpPalStart s.src + 4 * ·), hindexed (bmpPixOff s.src < bmpPalStart s.src + 4 * ·),
    hadmitted]
  simp only [parseChecks, firstFailing_cons, Bool.or_eq_true, Bool.and_eq_true, decide_eq_true_eq]
  rfl

/-- PARSE raises the error of the first check that fails, and commits when none does (R73). -/
theorem exec_parse (s : State) : exec .parse s =
    match firstFailing (parseChecks s) with
    | some e => raise e (encode .parse) s
    | none => .next s.committed := by
  change execParse s = _
  rw [firstFailing_parseChecks, execParse]
  split_ifs
  · rfl
  · cases parseError s.sizes.src s.srcLen.toNat s.src <;> rfl

theorem exec_parse_of_fails {s : State} {e : ErrCode} (h : firstFailing (parseChecks s) = some e) :
    exec .parse s = .next { s with err := some e, errCmd := encode .parse } := by
  rw [exec_parse, h]
  rfl

theorem exec_parse_of_passes {s : State} (h : firstFailing (parseChecks s) = none) :
    exec .parse s = .next s.committed := by
  rw [exec_parse, h]

theorem parseError_of_passes {s : State} (h : firstFailing (parseChecks s) = none) :
    parseError s.sizes.src s.srcLen.toNat s.src = none := by
  rw [firstFailing_parseChecks] at h
  split_ifs at h
  exact h

/-- Settles O36: the list of the checks is the order in which PARSE makes them. -/
theorem parseRaisesTheFirstFailingCheck : Obligations.ParseRaisesTheFirstFailingCheck := fun _ _ h =>
  exec_parse_of_fails h

/-! ## What the checks establish (R74 to R84) -/

/-- The file in the first `len` bytes of an SRC memory of `size` bytes passes every check. -/
structure Accepted (size len : Nat) (m : Memory) : Prop where
  inSrc : len ≤ size
  magic0 : Memory.read m 0 = 0x42#8
  magic1 : Memory.read m 1 = 0x4D#8
  infoHeader : 40 ≤ bmpHdrSize m
  headers : 14 + bmpHdrSize m ≤ len
  compression : bmpCompression m = 0
  bpp : bmpBpp m ∈ [1, 2, 4, 8, 24]
  height : 0 < bmpHeight m
  width : 0 < bmpWidth m
  palEntries : bmpBpp m ≤ 8 → bmpPalEntries m ≤ 2 ^ bmpBpp m
  palEnd : bmpBpp m ≤ 8 → bmpPalEnd m ≤ len
  pixEnd : bmpPixEnd m ≤ len

/-- A chain of checks answers nothing when the first check passes and the rest answers nothing. -/
theorem ite_some_eq_none {α : Type} {c : Prop} [Decidable c] {e : α} {next : Option α} :
    (if c then some e else next) = none ↔ ¬ c ∧ next = none := by
  split_ifs with h <;> simp [h]

theorem accepted_of_parseError {size len : Nat} {m : Memory} (h : parseError size len m = none) :
    Accepted size len m := by
  rw [parseError, infoError_eq, paletteError_or] at h
  simp only [ite_some_eq_none, and_true] at h
  obtain ⟨hsize, -, hmagic, -, hinfo, hheaders, hcompression, hbpp, hneg, hzero, -, hentries, hpalEnd, -, hpixEnd⟩ := h
  have hpalette : bmpBpp m ≤ 8 → bmpPalEntries m ≤ 2 ^ bmpBpp m ∧ bmpPalEnd m ≤ len := by omega
  exact {
    inSrc := Nat.le_of_not_lt hsize
    magic0 := by_contra fun h => hmagic (.inl h)
    magic1 := by_contra fun h => hmagic (.inr h)
    infoHeader := Nat.le_of_not_lt hinfo
    headers := Nat.le_of_not_lt hheaders
    compression := by_contra hcompression
    bpp := (bppAdmitted_iff _).mp (by rwa [Bool.not_eq_false] at hbpp)
    height := by omega
    width := by omega
    palEntries := fun h => (hpalette h).1
    palEnd := fun h => (hpalette h).2
    pixEnd := Nat.le_of_not_lt hpixEnd }

/-- A positive i32 field is its bit pattern (R12). -/
theorem s32_toNat_of_pos {v : Nat} (hv : v < 2 ^ 32) (h : 0 < s32 v) : (s32 v).toNat = v := by
  unfold s32 at h ⊢
  have hmsb : 2 * v < 2 ^ 32 := by
    rw [BitVec.toInt_eq_toNat_cond, BitVec.toNat_ofNat, Nat.mod_eq_of_lt hv] at h
    split_ifs at h <;> omega
  rw [BitVec.toInt_eq_toNat_of_lt (by rwa [BitVec.toNat_ofNat, Nat.mod_eq_of_lt hv]), BitVec.toNat_ofNat,
    Nat.mod_eq_of_lt hv, Int.toNat_natCast]

theorem rowDataBytes_le_rowStride (w d : Nat) : rowDataBytes w d ≤ rowStride w d := by
  have := rowDataBytes_add_rowPadding w d
  omega

theorem rowStride_pos {w d : Nat} (h : 0 < w * d) : 0 < rowStride w d := by
  unfold rowStride
  omega

namespace Accepted

variable {size len : Nat} {m : Memory}

theorem width_toNat (h : Accepted size len m) : (bmpWidth m).toNat = le32 m 18 :=
  s32_toNat_of_pos (le32_lt m 18) h.width

theorem height_toNat (h : Accepted size len m) : (bmpHeight m).toNat = le32 m 22 :=
  s32_toNat_of_pos (le32_lt m 22) h.height

theorem truecolour_iff (h : Accepted size len m) : bmpBpp m = 24 ↔ ¬ bmpBpp m ≤ 8 := by
  have := h.bpp
  simp only [List.mem_cons, List.not_mem_nil, or_false] at this
  omega

theorem stride_pos (h : Accepted size len m) : 0 < bmpStride m := by
  have hw := h.width
  have hd : 0 < bmpBpp m := by
    have := h.bpp
    simp only [List.mem_cons, List.not_mem_nil, or_false] at this
    omega
  exact rowStride_pos (Nat.mul_pos (by omega) hd)

/-- The rows lie in the file (R81). -/
theorem rows_le (h : Accepted size len m) : bmpPixOff m + (bmpHeight m).toNat * bmpStride m ≤ len := h.pixEnd

theorem stride_le (h : Accepted size len m) : bmpStride m ≤ len := by
  have hone : 1 * bmpStride m ≤ (bmpHeight m).toNat * bmpStride m :=
    Nat.mul_le_mul_right _ (by have := h.height; omega)
  have := h.rows_le
  omega

theorem dataBytes_le_stride (_ : Accepted size len m) : bmpDataBytes m ≤ bmpStride m := rowDataBytes_le_rowStride _ _

theorem height_le (h : Accepted size len m) : (bmpHeight m).toNat ≤ len := by
  have hone : (bmpHeight m).toNat * 1 ≤ (bmpHeight m).toNat * bmpStride m := Nat.mul_le_mul_left _ h.stride_pos
  have := h.rows_le
  omega

/-- The stream is at most twice as long as the file (R84): each row adds one filter byte. -/
theorem scnLen_le (h : Accepted size len m) : (bmpHeight m).toNat * (1 + bmpDataBytes m) ≤ 2 * len := by
  have hrows : (bmpHeight m).toNat * bmpDataBytes m ≤ (bmpHeight m).toNat * bmpStride m :=
    Nat.mul_le_mul_left _ h.dataBytes_le_stride
  have hh := h.height_le
  have := h.rows_le
  rw [Nat.mul_add]
  omega

theorem palEntries_le (h : Accepted size len m) : bmpPalEntries m ≤ 256 := by
  by_cases h8 : bmpBpp m ≤ 8
  · calc bmpPalEntries m ≤ 2 ^ bmpBpp m := h.palEntries h8
      _ ≤ 2 ^ 8 := Nat.pow_le_pow_right (by decide) h8
  · rw [bmpPalEntries_truecolour h8]
    exact Nat.zero_le _

/-- No committed value wraps (R84). -/
theorem toReg_dataBytes (h : Accepted size len m) (hlen : len ≤ 2 ^ 28) :
    (toReg (bmpDataBytes m)).toNat = bmpDataBytes m :=
  toReg_toNat (by have := h.dataBytes_le_stride; have := h.stride_le; omega)

theorem toReg_stride (h : Accepted size len m) (hlen : len ≤ 2 ^ 28) : (toReg (bmpStride m)).toNat = bmpStride m :=
  toReg_toNat (by have := h.stride_le; omega)

theorem toReg_scnLen (h : Accepted size len m) (hlen : len ≤ 2 ^ 28) :
    (parsedScnLen m).toNat = (bmpHeight m).toNat * (1 + bmpDataBytes m) :=
  toReg_toNat (by have := h.scnLen_le; omega)

theorem toReg_palEntries (h : Accepted size len m) : (toReg (bmpPalEntries m)).toNat = bmpPalEntries m :=
  toReg_toNat (by have := h.palEntries_le; omega)

end Accepted

theorem toReg_le32 (m : Memory) (a : Nat) : (toReg (le32 m a)).toNat = le32 m a := toReg_toNat (le32_lt m a)

theorem toReg_le16 (m : Memory) (a : Nat) : (toReg (le16 m a)).toNat = le16 m a :=
  toReg_toNat (Nat.lt_trans (le16_lt m a) (by decide))

/-- What `Accepted` gives for the state in which PARSE passes every check. -/
theorem accepted_of_passes {s : State} (hz : s.sizes.wellFormed = true) (h : firstFailing (parseChecks s) = none) :
    Accepted s.sizes.src s.srcLen.toNat s.src ∧ s.srcLen.toNat ≤ 2 ^ 28 := by
  have hacc := accepted_of_parseError (parseError_of_passes h)
  have hsize := (sizes_bounds hz .src).2
  rw [sizes_of_src] at hsize
  exact ⟨hacc, Nat.le_trans hacc.inSrc hsize⟩

/-- Settles O37: PARSE commits, and every value it commits fits its register. -/
theorem parseLoadsTheHeader : Obligations.ParseLoadsTheHeader := by
  intro s hz h
  obtain ⟨hacc, hlen⟩ := accepted_of_passes hz h
  have hentries : (toReg (bmpPalEntries s.src)).toNat = bmpPalEntries s.src := hacc.toReg_palEntries
  refine ⟨s.committed, exec_parse_of_passes h, rfl, ?signature, toReg_le32 _ _, toReg_le16 _ _, toReg_le16 _ _,
    toReg_le32 _ _, toReg_le32 _ _, toReg_le32 _ _, toReg_le32 _ _, toReg_le16 _ _, toReg_le16 _ _, rfl, toReg_le32 _ _,
    toReg_le32 _ _, toReg_le32 _ _, toReg_le32 _ _, toReg_le32 _ _, ?entries, ?dataBytes, ?stride, ?scnLen, rfl,
    ?palette⟩
  case signature =>
    change toReg (le16 s.src 0) = _
    rw [le16, hacc.magic0, hacc.magic1]
    rfl
  case entries =>
    refine hentries.trans ?_
    change _ = if bmpBpp s.src = 24 then _ else _
    by_cases h8 : bmpBpp s.src ≤ 8
    · rw [if_neg (mt hacc.truecolour_iff.mp (not_not.mpr h8)), bmpPalEntries_indexed h8]
      rfl
    · rw [if_pos (hacc.truecolour_iff.mpr h8), bmpPalEntries_truecolour h8]
  case dataBytes =>
    refine (hacc.toReg_dataBytes hlen).trans ?_
    rw [bmpDataBytes, hacc.width_toNat]
    rfl
  case stride =>
    refine (hacc.toReg_stride hlen).trans ?_
    rw [bmpStride, hacc.width_toNat]
    rfl
  case scnLen =>
    refine (hacc.toReg_scnLen hlen).trans ?_
    rw [bmpDataBytes, hacc.width_toNat, hacc.height_toNat]
    rfl
  case palette =>
    intro k
    refine (parsedPalette_get s.src k).trans ?_
    change _ = if k.val < (toReg (bmpPalEntries s.src)).toNat then _ else _
    rw [hentries]
    rfl

/-- Settles O38: the rows lie in the file, and each has at least one byte. -/
theorem parseRanges : Obligations.ParseRanges := by
  intro s t hz h ht
  obtain ⟨hacc, hlen⟩ := accepted_of_passes hz h
  rw [exec_parse_of_passes h] at ht
  obtain rfl := next_inj ht
  have hstride : s.committed.header.stride.toNat = bmpStride s.src := hacc.toReg_stride hlen
  have hdata : s.committed.header.dataBytes.toNat = bmpDataBytes s.src := hacc.toReg_dataBytes hlen
  have hheight : s.committed.header.height.toNat = (bmpHeight s.src).toNat :=
    (toReg_le32 _ _).trans hacc.height_toNat.symm
  have hscn : s.committed.scnLen.toNat = _ := hacc.toReg_scnLen hlen
  have hscnLe := hacc.scnLen_le
  rw [hstride, hdata, hheight, hscn]
  exact ⟨hacc.stride_le, hlen, hacc.dataBytes_le_stride, hacc.height_le, rfl, hscnLe, by omega⟩

/-! ## The relations that PARSE leaves (R27) -/

theorem geometryOk_committed {s : State} (hz : s.sizes.wellFormed = true)
    (h : parseError s.sizes.src s.srcLen.toNat s.src = none) : GeometryOk s.committed := by
  have hacc := accepted_of_parseError h
  have hlen : s.srcLen.toNat ≤ 2 ^ 28 := Nat.le_trans hacc.inSrc (sizes_bounds hz .src).2
  have hbpp : s.committed.header.bpp.toNat = bmpBpp s.src := toReg_le16 _ _
  have hpixOff : s.committed.header.pixOff.toNat = bmpPixOff s.src := toReg_le32 _ _
  have hdata : s.committed.header.dataBytes.toNat = bmpDataBytes s.src := hacc.toReg_dataBytes hlen
  have hstride : s.committed.header.stride.toNat = bmpStride s.src := hacc.toReg_stride hlen
  have hentries : s.committed.header.palEntries.toNat = bmpPalEntries s.src := hacc.toReg_palEntries
  exact {
    width := hacc.width
    height := hacc.height
    compression := rfl
    bpp := by rw [hbpp]; exact hacc.bpp
    dataBytes := by rw [hdata, hbpp]; rfl
    stride := by rw [hstride, hbpp]; rfl
    pixels := by rw [hpixOff, hstride]; exact Nat.le_trans hacc.rows_le hacc.inSrc
    scnLen := by rw [hdata]; exact hacc.toReg_scnLen hlen
    noPalette := fun h24 => by
      rw [hbpp] at h24
      rw [hentries, bmpPalEntries_truecolour (hacc.truecolour_iff.mp h24)]
    palette := fun h8 => by
      rw [hbpp] at h8 ⊢
      rw [hentries]
      refine ⟨?_, hacc.palEntries h8⟩
      rw [bmpPalEntries_indexed h8]
      split_ifs with hcount
      · omega
      · exact Nat.one_le_two_pow
    palFlag := by rw [hbpp]; rfl
    unusedEntries := fun k hk => by
      rw [hentries] at hk
      exact (parsedPalette_get s.src k).trans (if_neg (Nat.not_lt_of_le hk))
    entryTop := fun k => by
      rw [committed_palette, parsedPalette_get]
      split_ifs
      · exact paletteEntry_top _ _
      · rfl }

end Sys2Proof.Proofs

namespace Sys2Proof.Proofs

open Sys2Proof.Machine Sys2Proof.Laws

/-! ## What PARSE reads (R83, R84) -/

section Agreement

variable {len : Nat} {m m' : Memory}

theorem le16_congr (hm : ∀ a, a < len → Memory.read m' a = Memory.read m a) {a : Nat} (h : a + 2 ≤ len) :
    le16 m' a = le16 m a := by
  rw [le16, hm a (by omega), hm (a + 1) (by omega), le16]

theorem le32_congr (hm : ∀ a, a < len → Memory.read m' a = Memory.read m a) {a : Nat} (h : a + 4 ≤ len) :
    le32 m' a = le32 m a := by
  rw [le32, hm a (by omega), hm (a + 1) (by omega), hm (a + 2) (by omega), hm (a + 3) (by omega), le32]

/-- The fields of the headers, equal in the two memories once the headers lie in the file. -/
structure SameFields (m m' : Memory) : Prop where
  hdrSize : bmpHdrSize m' = bmpHdrSize m
  pixOff : bmpPixOff m' = bmpPixOff m
  width : bmpWidth m' = bmpWidth m
  height : bmpHeight m' = bmpHeight m
  bpp : bmpBpp m' = bmpBpp m
  compression : bmpCompression m' = bmpCompression m
  palCount : bmpPalCount m' = bmpPalCount m

theorem sameFields_of_agree (hm : ∀ a, a < len → Memory.read m' a = Memory.read m a) (h : 54 ≤ len) :
    SameFields m m' where
  hdrSize := le32_congr hm (by omega)
  pixOff := le32_congr hm (by omega)
  width := congrArg s32 (le32_congr hm (by omega))
  height := congrArg s32 (le32_congr hm (by omega))
  bpp := le16_congr hm (by omega)
  compression := le32_congr hm (by omega)
  palCount := le32_congr hm (by omega)

namespace SameFields

theorem palEntries (h : SameFields m m') : bmpPalEntries m' = bmpPalEntries m := by
  simp only [bmpPalEntries, h.bpp, h.palCount]

theorem palStart (h : SameFields m m') : bmpPalStart m' = bmpPalStart m := by
  simp only [bmpPalStart, h.hdrSize]

theorem palEnd (h : SameFields m m') : bmpPalEnd m' = bmpPalEnd m := by
  simp only [bmpPalEnd, h.palStart, h.palEntries]

theorem dataBytes (h : SameFields m m') : bmpDataBytes m' = bmpDataBytes m := by
  simp only [bmpDataBytes, h.width, h.bpp]

theorem stride (h : SameFields m m') : bmpStride m' = bmpStride m := by
  simp only [bmpStride, h.width, h.bpp]

theorem pixEnd (h : SameFields m m') : bmpPixEnd m' = bmpPixEnd m := by
  simp only [bmpPixEnd, h.pixOff, h.height, h.stride]

theorem infoError (h : SameFields m m') : infoError len m' = infoError len m := by
  simp only [infoError_eq, paletteError_or, h.compression, h.bpp, h.height, h.width, h.pixOff, h.hdrSize, h.palEntries,
    h.palEnd, h.pixEnd]

theorem parsedScnLen (h : SameFields m m') : parsedScnLen m' = parsedScnLen m := by
  simp only [Machine.parsedScnLen, h.height, h.dataBytes]

end SameFields

/-- The checks look at no byte that an earlier check has not found in the file (R73). -/
theorem parseError_congr (hm : ∀ a, a < len → Memory.read m' a = Memory.read m a) (size : Nat) :
    parseError size len m' = parseError size len m := by
  unfold parseError
  by_cases h14 : len < 14
  · simp only [if_pos h14]
  rw [hm 0 (by omega), hm 1 (by omega)]
  by_cases h18 : len < 18
  · simp only [if_pos h18]
  have hhdr : bmpHdrSize m' = bmpHdrSize m := le32_congr hm (by omega)
  rw [hhdr]
  by_cases hinfo : bmpHdrSize m < 40
  · simp only [if_pos hinfo]
  by_cases hheaders : len < 14 + bmpHdrSize m
  · simp only [if_pos hheaders]
  rw [(sameFields_of_agree hm (by omega)).infoError]

/-- The registers that an accepted file loads (R69, R84). -/
theorem parsedHeader_congr (hm : ∀ a, a < len → Memory.read m' a = Memory.read m a) (h : 54 ≤ len) :
    parsedHeader m' = parsedHeader m := by
  have hsame := sameFields_of_agree hm h
  have h16 (a : Nat) (ha : a + 2 ≤ 54) : le16 m' a = le16 m a := le16_congr hm (by omega)
  have h32 (a : Nat) (ha : a + 4 ≤ 54) : le32 m' a = le32 m a := le32_congr hm (by omega)
  simp only [parsedHeader, hsame.pixOff, hsame.hdrSize, hsame.bpp, hsame.palCount, hsame.dataBytes, hsame.stride,
    hsame.palEntries, h16 0 (by decide), h16 6 (by decide), h16 8 (by decide), h16 26 (by decide), h32 2 (by decide),
    h32 18 (by decide), h32 22 (by decide), h32 34 (by decide), h32 38 (by decide), h32 42 (by decide),
    h32 50 (by decide)]

theorem parsedPalette_congr (hm : ∀ a, a < len → Memory.read m' a = Memory.read m a) {size : Nat}
    (h : Accepted size len m) : parsedPalette m' = parsedPalette m := by
  have hsame := sameFields_of_agree hm (by have := h.infoHeader; have := h.headers; omega)
  refine Vector.ext fun k hk => ?_
  rw [parsedPalette_get m' ⟨k, hk⟩, parsedPalette_get m ⟨k, hk⟩, hsame.palEntries, hsame.palStart]
  dsimp only
  split_ifs with hentry
  · have h8 : bmpBpp m ≤ 8 := by
      by_contra h8
      rw [bmpPalEntries_truecolour h8] at hentry
      omega
    have hend : bmpPalStart m + 4 * bmpPalEntries m ≤ len := h.palEnd h8
    rw [paletteEntry, hm _ (by omega), hm _ (by omega), hm _ (by omega), paletteEntry]
  · rfl

end Agreement

/-- Settles O39: the checks answer alike, and an accepted file lies below SRC_LEN with all that is loaded from it. -/
theorem parseDependsOnlyOnTheFile : Obligations.ParseDependsOnlyOnTheFile := by
  intro s m hm
  have hpass : firstFailing (parseChecks { s with src := m }) = firstFailing (parseChecks s) := by
    rw [firstFailing_parseChecks, firstFailing_parseChecks]
    exact congrArg (fun e => if s.phase ≠ .idle then some ErrCode.sequenceError else e)
      (parseError_congr hm s.sizes.src)
  cases hfail : firstFailing (parseChecks s) with
  | some e => exact ⟨_, exec_parse_of_fails hfail, exec_parse_of_fails (hpass.trans hfail)⟩
  | none =>
    refine ⟨_, exec_parse_of_passes hfail, (exec_parse_of_passes (hpass.trans hfail)).trans ?_⟩
    have hacc := accepted_of_parseError (parseError_of_passes hfail)
    have h54 : 54 ≤ s.srcLen.toNat := by have := hacc.infoHeader; have := hacc.headers; omega
    have hsame := sameFields_of_agree hm h54
    have hbpp : decide (bmpBpp m ≤ 8) = decide (bmpBpp s.src ≤ 8) := by rw [hsame.bpp]
    simp only [State.committed, parsedHeader_congr hm h54, parsedPalette_congr hm hacc, hsame.parsedScnLen, hbpp]

/-! ## The header relations (R26, R27, R28) -/

/-- SRC_SIZE, the header registers, the palette file, SCN_LEN and STATUS.PAL are all that R27 speaks of. -/
theorem geometryOk_congr {s t : State} (g : GeometryOk s) (hsize : t.sizes.src = s.sizes.src)
    (hheader : t.header = s.header) (hpalette : t.palette = s.palette) (hscn : t.scnLen = s.scnLen)
    (hpal : t.pal = s.pal) : GeometryOk t := by
  have himgWidth : t.imgWidth = s.imgWidth := by rw [State.imgWidth, hheader, State.imgWidth]
  have himgHeight : t.imgHeight = s.imgHeight := by rw [State.imgHeight, hheader, State.imgHeight]
  constructor <;> simp only [hsize, hheader, hpalette, hscn, hpal, himgWidth, himgHeight]
  exacts [g.width, g.height, g.compression, g.bpp, g.dataBytes, g.stride, g.pixels, g.scnLen, g.noPalette, g.palette,
    g.palFlag, g.unusedEntries, g.entryTop]

/-- The same for HeaderOk, which asks of PHASE only whether it is IDLE. -/
theorem headerOk_congr {s t : State} (hs : HeaderOk s) (hsizes : t.sizes = s.sizes) (hheader : t.header = s.header)
    (hpalette : t.palette = s.palette) (hscn : t.scnLen = s.scnLen) (hpal : t.pal = s.pal)
    (hphase : t.phase = .idle ↔ s.phase = .idle) : HeaderOk t := by
  obtain ⟨hz, hidle, hgeometry⟩ := hs
  refine ⟨hsizes ▸ hz, fun h => ?_, fun h => ?_⟩
  · rw [hheader, hpalette, hscn, hpal]
    exact hidle (hphase.mp h)
  · exact geometryOk_congr (hgeometry (mt hphase.mpr h)) (congrArg Sizes.src hsizes) hheader hpalette hscn hpal

theorem sizes_of_headerOk {s : State} (hs : HeaderOk s) : s.sizes.wellFormed = true := hs.1

theorem geometry_of_headerOk {s : State} (hs : HeaderOk s) (hphase : s.phase ≠ .idle) : GeometryOk s := hs.2.2 hphase

theorem headerOk_powerOn {z : Sizes} (hz : z.wellFormed = true) (src scn pay snk : Memory) :
    HeaderOk (State.powerOn z src scn pay snk) :=
  ⟨hz, fun _ => ⟨rfl, rfl, rfl, rfl⟩, fun h => absurd rfl h⟩

/-- The framer runs in no phase and moves to no phase that is IDLE. -/
theorem phase_ne_idle_of_emits {s : State} {i : Instr} {bs : List Byte} {p : Phase} (h : Emits s i bs p) :
    s.phase ≠ .idle ∧ p ≠ .idle := by
  cases h with
  | pngsig hp | ihdr hp | plte hp | iend hp => simp [hp]
  | idat hp => rcases hp with ⟨hp, -⟩ | hp <;> simp [hp]

theorem headerOk_of_completes {i : Instr} {s t : State} (h : Completes s i t) (hs : HeaderOk s) : HeaderOk t := by
  cases h with
  | nop | fold | crcfin => exact headerOk_congr hs rfl rfl rfl rfl rfl Iff.rfl
  | reset =>
    exact headerOk_congr (headerOk_powerOn (sizes_of_headerOk hs) s.src s.scn s.pay s.snk) rfl rfl rfl rfl rfl Iff.rfl
  | parse _ hchecks =>
    have hz := sizes_of_headerOk hs
    exact ⟨hz, nofun, fun _ => geometryOk_committed hz hchecks⟩
  | transcode _ hrows =>
    rw [writeRows_frame hrows]
    exact headerOk_congr hs rfl rfl rfl rfl rfl Iff.rfl
  | emit _ hemits =>
    obtain ⟨hs', hp⟩ := phase_ne_idle_of_emits hemits
    exact headerOk_congr hs rfl rfl rfl rfl rfl (iff_of_false hp hs')

theorem headerOk_kept : KeptByEffects HeaderOk where
  outside _ _ _ _ _ _ _ _ hs := headerOk_congr hs rfl rfl rfl rfl rfl Iff.rfl
  power s _ hs :=
    headerOk_congr (headerOk_powerOn (sizes_of_headerOk hs) s.src s.scn s.pay s.snk) rfl rfl rfl rfl rfl Iff.rfl
  store _ _ _ _ _ _ hs := headerOk_congr hs (setMem_sizes _ _ _) (setMem_header _ _ _) (setMem_palette _ _ _)
    (setMem_scnLen _ _ _) (setMem_pal _ _ _) (by rw [setMem_phase])
  raise _ _ _ hs := headerOk_congr hs rfl rfl rfl rfl rfl Iff.rfl
  done _ _ _ hc hs := headerOk_of_completes hc hs

/-- Settles O57: PARSE writes the header registers when its checks have established R27, RESET and power-on clear them,
and nothing else writes them or moves PHASE to or from IDLE. -/
theorem everyStepKeepsTheHeaderRelations : Obligations.EveryStepKeepsTheHeaderRelations := fun _ _ =>
  step_keeps headerOk_kept

end Sys2Proof.Proofs

namespace Sys2Proof.Proofs

open Sys2Proof.Machine Sys2Proof.Laws

/-! ## The stream in SNK (R105 to R111) -/

/-- PHASE and the registers that the stream is made of. -/
theorem pngStream_congr {s t : State} (hphase : t.phase = s.phase) (hpal : t.pal = s.pal)
    (hheader : t.header = s.header) (hpalette : t.palette = s.palette) (body : List Byte) : pngStream t body = pngStream s body := by
  simp only [pngStream, pngHeadPal, pngHead, paletteBody, hphase, hpal, hheader, hpalette]

theorem streamOk_congr {s t : State} (hs : StreamOk s) (hsizes : t.sizes = s.sizes) (hsnk : t.snk = s.snk)
    (hlen : t.snkLen = s.snkLen) (hphase : t.phase = s.phase) (hpal : t.pal = s.pal) (hheader : t.header = s.header)
    (hpalette : t.palette = s.palette) : StreamOk t := by
  obtain ⟨hfit, hplt, body, hstream⟩ := hs
  refine ⟨by rwa [hlen, hsizes], by rwa [hphase, hpal], body, ?_⟩
  rw [pngStream_congr hphase hpal hheader hpalette, hsnk, hlen, hstream]

/-- Before PNGSIG the stream is empty. -/
theorem streamOk_of_empty {s : State} (hphase : s.phase = .idle ∨ s.phase = .parsed) (hlen : s.snkLen = 0#32) :
    StreamOk s := by
  refine ⟨by simp [hlen], fun h => by simp [h] at hphase, [], ?_⟩
  rw [hlen]
  rcases hphase with h | h <;> simp only [pngStream, h] <;> rfl

/-- What a framer command appends is the next part of the stream (R107). -/
theorem pngStream_of_emits {s : State} {i : Instr} {bs : List Byte} {p : Phase} (h : Emits s i bs p)
    (body : List Byte) : ∃ body', pngStream (s.setPhase p) body' = pngStream s body ++ bs := by
  cases h with
  | pngsig hp => exact ⟨body, by simp only [pngStream, hp]; rfl⟩
  | ihdr hp => exact ⟨body, by simp only [pngStream, hp]; rfl⟩
  | plte hp hpal =>
    refine ⟨body, ?_⟩
    simp only [pngStream, hp, setPhase_phase, pngHeadPal, setPhase_pal, hpal, if_true]
    rfl
  | idat hp body' =>
    refine ⟨body', ?_⟩
    rcases hp with ⟨hp, hpal⟩ | hp
    · have hhead : pngHeadPal s = pngHead s := by simp [pngHeadPal, hpal]
      simp only [pngStream, hp, ← hhead]
      rfl
    · simp only [pngStream, hp]
      rfl
  | iend hp =>
    refine ⟨body, ?_⟩
    simp only [pngStream, hp, iendChunk_eq_frame]
    rfl

/-- Bytes stored behind the first `n` extend them. -/
theorem readBytes_writeBytes_append {m : Memory} (hm : Memory.wf m = true) (n : Nat) (bs : List Byte) :
    Memory.readBytes (Memory.writeBytes m n bs) 0 (n + bs.length) = Memory.readBytes m 0 n ++ bs := by
  rw [readBytes_append, Nat.zero_add, readBytes_stored (writeBytes_stored hm n bs)]
  congr 1
  exact readBytes_congr fun k hk => read_writeBytes_outside (by omega)

theorem streamOk_of_completes {i : Instr} {s t : State} (h : Completes s i t) (hm : MemoriesOk s) (hh : HeaderOk s)
    (hs : StreamOk s) : StreamOk t := by
  cases h with
  | nop | fold | crcfin => exact streamOk_congr hs rfl rfl rfl rfl rfl rfl rfl
  | reset => exact streamOk_of_empty (.inl rfl) rfl
  | parse hp =>
    obtain ⟨hfit, -, body, hstream⟩ := hs
    refine ⟨hfit, nofun, body, hstream.trans ?_⟩
    simp only [pngStream, hp]
    rfl
  | transcode _ hrows =>
    rw [writeRows_frame hrows]
    exact streamOk_congr hs rfl rfl rfl rfl rfl rfl rfl
  | @emit _ bs p _ hemits hfit =>
    obtain ⟨-, -, body, hstream⟩ := hs
    obtain ⟨body', hgrown⟩ := pngStream_of_emits hemits body
    have hsize := (sizes_bounds (sizes_of_headerOk hh) .snk).2
    have hlen : (toReg (s.snkLen.toNat + bs.length)).toNat = s.snkLen.toNat + bs.length :=
      toReg_toNat (by rw [sizes_of_snk] at hsize; omega)
    refine ⟨?fits, ?plt, body', ?stream⟩
    case fits => rw [hlen]; exact hfit
    case plt =>
      cases hemits with
      | plte _ hpal => exact fun _ => hpal
      | _ => exact nofun
    case stream =>
      have hread := readBytes_writeBytes_append (hm .snk).1 s.snkLen.toNat bs
      rw [mem_snk, hstream, ← hgrown] at hread
      rw [hlen]
      exact hread.trans (pngStream_congr rfl rfl rfl rfl body').symm

/-! ## The error state (R120, R121) -/

theorem inFlight_of_completes {i : Instr} {s t : State} (h : Completes s i t) (hs : s.inFlight = none) :
    t.inFlight = none := by
  cases h with
  | reset => rfl
  | transcode _ hrows =>
    rw [writeRows_frame hrows]
    exact hs
  | _ => exact hs

/-- A command performed with BUSY fallen leaves ERR_CMD at 0 when it leaves no error, and no command in flight. -/
theorem errorOk_of_exec {i : Instr} {s t : State} (h : exec i s = .next t) (hidle : s.inFlight = none)
    (herr : s.err = none → s.errCmd = 0#32) : ErrorOk t := by
  have hidle' : t.inFlight = none := by
    rcases exec_completes h with ⟨e, rfl⟩ | hc
    · exact hidle
    · exact inFlight_of_completes hc hidle
  refine ⟨fun hnone => ?_, fun f hf => by rw [hidle'] at hf; cases hf⟩
  rcases exec_error_cases h with ⟨e, rfl⟩ | ⟨-, rfl⟩ | ⟨hkept, hcmd⟩
  · cases hnone
  · rfl
  · rw [hcmd]
    exact herr (hkept ▸ hnone)

theorem errorOk_of_engineStep {w : Word} {s t : State} (hs : ErrorOk s) (h : engineStep w s = .next t) : ErrorOk t := by
  rcases engineStep_cases w s with ⟨i, -, hexec⟩ | ⟨-, -, hillegal⟩
  · rw [hexec] at h
    exact errorOk_of_exec h rfl hs.1
  · obtain rfl := next_inj (hillegal ▸ h)
    exact ⟨nofun, nofun⟩

/-- With an error held, a host write to a register takes RESET only. -/
theorem errorOk_regWrite {s : State} (hs : ErrorOk s) (off : Nat) (v : Word) : ErrorOk (regWrite off v s) := by
  rcases regWrite_cases off v s with h | h | h | h | ⟨hdrop, h⟩ <;> rw [h]
  · exact hs
  · exact hs
  · exact hs
  · exact hs
  · refine ⟨hs.1, ?_⟩
    rintro f hf herr
    obtain rfl := Option.some.inj hf
    by_contra hv
    rw [drops_of_error (s := s) herr hv] at hdrop
    cases hdrop

theorem errorOk_of_hostMove {s t : State} (hs : ErrorOk s) (h : hostMove s = .next t) : ErrorOk t := by
  rcases hostMove_cases h with ⟨l, v, rfl⟩ | ⟨c, rest, -, rfl⟩ | ⟨-, l, off, v, rfl⟩ | ⟨l, sp, a, width, v, -, -, rfl⟩
  · exact hs
  · exact ⟨fun _ => rfl, nofun⟩
  · exact errorOk_regWrite (s := { s with inputs := l }) hs off v
  · unfold ErrorOk
    rw [setMem_err, setMem_errCmd, setMem_inFlight]
    exact hs

theorem errorOk_of_step {s t : State} (hs : ErrorOk s) (h : step s = .next t) : ErrorOk t := by
  rcases step_cases s with ⟨f, -, -, hstep⟩ | ⟨o, -, hword, hstep⟩ <;> rw [hstep] at h
  · exact errorOk_of_engineStep hs h
  · refine errorOk_of_hostMove (s := { s with inFlight := o }) ⟨hs.1, fun f hf herr => ?_⟩ h
    obtain ⟨g, hg, hgf⟩ := hword f hf
    exact hgf ▸ hs.2 g hg herr

/-! ## The whole invariant -/

/-- A host store reaches SRC or PAY, where no part of the stream stands (R37). -/
theorem streamOk_setMem {s : State} {sp : Space} (hsp : hostWritable sp = true) (m : Memory) (hs : StreamOk s) :
    StreamOk (s.setMem sp m) := by
  cases sp with
  | src | pay => exact streamOk_congr hs rfl rfl rfl rfl rfl rfl rfl
  | scn | snk => cases hsp

theorem streamOk_kept : KeptByEffects (fun s => MemoriesOk s ∧ HeaderOk s ∧ StreamOk s) where
  outside := fun _ _ _ _ _ _ _ _ ⟨hm, hh, hs⟩ =>
    ⟨memoriesOk_kept.outside _ _ _ _ _ _ _ _ hm, headerOk_kept.outside _ _ _ _ _ _ _ _ hh,
      streamOk_congr hs rfl rfl rfl rfl rfl rfl rfl⟩
  power := fun _ _ ⟨hm, hh, _⟩ =>
    ⟨memoriesOk_kept.power _ _ hm, headerOk_kept.power _ _ hh, streamOk_of_empty (.inl rfl) rfl⟩
  store := fun _ _ _ _ hsp hfit ⟨hm, hh, hs⟩ =>
    ⟨memoriesOk_kept.store _ _ _ _ hsp hfit hm, headerOk_kept.store _ _ _ _ hsp hfit hh, streamOk_setMem hsp _ hs⟩
  raise := fun _ _ _ ⟨hm, hh, hs⟩ =>
    ⟨memoriesOk_kept.raise _ _ _ hm, headerOk_kept.raise _ _ _ hh, streamOk_congr hs rfl rfl rfl rfl rfl rfl rfl⟩
  done := fun _ _ _ hc ⟨hm, hh, hs⟩ =>
    ⟨memoriesOk_of_completes hc hm, headerOk_of_completes hc hh, streamOk_of_completes hc hm hh hs⟩

/-- Settles O58: what a framer command appends is the next part of the stream, no other effect writes SNK or a register
the stream is made of but RESET and power-on, which empty the stream, and PARSE, before which it is empty. -/
theorem everyStepKeepsTheInvariant : Obligations.EveryStepKeepsTheInvariant := by
  rintro s t ⟨hm, hh, hs, he⟩ h
  obtain ⟨hm', hh', hs'⟩ := step_keeps streamOk_kept ⟨hm, hh, hs⟩ h
  exact ⟨hm', hh', hs', errorOk_of_step he h⟩

theorem inv_powerOn {z : Sizes} {src scn pay snk : Memory} (hz : z.wellFormed = true)
    (hm : MemoriesOk (State.powerOn z src scn pay snk)) : Inv (State.powerOn z src scn pay snk) :=
  ⟨hm, headerOk_powerOn hz src scn pay snk, streamOk_of_empty (.inl rfl) rfl, fun _ => rfl, nofun⟩

/-- Settles O59: power-on leaves no image, no stream and no error. -/
theorem powerOnMeetsTheInvariant : Obligations.PowerOnMeetsTheInvariant := by
  refine ⟨fun _ _ _ _ _ hz hm => inv_powerOn hz hm, inv_powerOn (by decide) ?_⟩
  intro sp
  cases sp <;> exact ⟨rfl, rfl⟩

end Sys2Proof.Proofs

namespace Sys2Proof.Proofs

open Sys2Proof.Machine Sys2Proof.Laws

/-! ## Blocks of equal length, one after another -/

/-- Where entry `k` of block `n` stands. -/
theorem block_div_mod {n m k : Nat} (hk : k < m) : (n * m + k) / m = n ∧ (n * m + k) % m = k := by
  rw [Nat.mul_comm n m, Nat.mul_add_div (by omega), Nat.div_eq_of_lt hk, Nat.mul_add_mod, Nat.mod_eq_of_lt hk]
  exact ⟨Nat.add_zero n, rfl⟩

/-- `n` blocks of `m` entries: entry `k` of the whole is entry `k % m` of block `k / m`. -/
theorem flatMap_range_map {α : Type} (n m : Nat) (f : Nat → Nat → α) :
    (List.range n).flatMap (fun i => (List.range m).map (f i)) =
      (List.range (n * m)).map (fun k => f (k / m) (k % m)) := by
  induction n with
  | zero => simp
  | succ n ih =>
    have hblock : (List.range m).map (f n) = (List.range m).map (fun k => f ((n * m + k) / m) ((n * m + k) % m)) := by
      refine List.map_congr_left fun k hk => ?_
      obtain ⟨hdiv, hmod⟩ := block_div_mod (n := n) (List.mem_range.mp hk)
      rw [hdiv, hmod]
    rw [List.range_succ, List.flatMap_append, ih, List.flatMap_singleton, hblock, Nat.succ_mul, List.range_add,
      List.map_append, List.map_map]
    rfl

/-- Two stores, the second right behind the first, are one. -/
theorem writeBytes_append (m : Memory) (a : Nat) (bs cs : List Byte) :
    Memory.writeBytes m a (bs ++ cs) = Memory.writeBytes (Memory.writeBytes m a bs) (a + bs.length) cs := by
  induction bs generalizing m a with
  | nil => rfl
  | cons b bs ih =>
    rw [List.cons_append, Memory.writeBytes, ih, Memory.writeBytes, List.length_cons, Nat.add_assoc, Nat.add_comm 1]

/-! ## One scanline (R85 to R90) -/

/-- The bytes of `scanline(i)`, by position. -/
def scanBytes (s : State) (i : Nat) : List Byte := (List.range s.lineBytes).map (scanByte s i)

@[simp] theorem scanBytes_length (s : State) (i : Nat) : (scanBytes s i).length = s.lineBytes := by
  simp [scanBytes]

theorem scanBytes_eq_cons (s : State) (i : Nat) :
    scanBytes s i = 0x00#8 :: (List.range s.header.dataBytes.toNat).map (fun k => scanByte s i (k + 1)) := by
  rw [scanBytes, State.lineBytes, Nat.add_comm, List.range_succ_eq_map, List.map_cons, List.map_map]
  rfl

theorem bpp_eq_iff (s : State) : s.header.bpp = 24#32 ↔ s.header.bpp.toNat = 24 := BitVec.toNat_inj.symm

/-- The channel reorder of a row read from SRC (R87). -/
theorem reorderRow_readBytes (m : Memory) (a w : Nat) :
    reorderRow w (Memory.readBytes m a (3 * w)) =
      (List.range (3 * w)).map (fun k => Memory.read m (a + 3 * (k / 3) + (2 - k % 3))) := by
  rw [Nat.mul_comm 3 w, ← flatMap_range_map w 3 (fun p c => Memory.read m (a + 3 * p + (2 - c))), reorderRow]
  refine List.flatMap_congr fun p hp => ?_
  have hpw := List.mem_range.mp hp
  have hget (c : Nat) (hc : c < 3) :
      (Memory.readBytes m a (w * 3)).getD (3 * p + c) 0#8 = Memory.read m (a + 3 * p + c) := by
    have hlt : 3 * p + c < (Memory.readBytes m a (w * 3)).length := by rw [readBytes_length]; omega
    rw [← List.getElem_eq_getD 0#8 (h := hlt), readBytes_getElem, Nat.add_assoc]
  rw [rgbPixel, hget 2 (by decide), hget 1 (by decide), show 3 * p = 3 * p + 0 from rfl, hget 0 (by decide)]
  rfl

section Geometry

variable {s : State}

theorem dataBytes_truecolour (g : GeometryOk s) (h : s.header.bpp.toNat = 24) :
    s.header.dataBytes.toNat = 3 * s.imgWidth := by
  rw [g.dataBytes, h]
  omega

/-- The bytes of an output row that exists lie in SRC (R84, R85). -/
theorem rowStart_add_dataBytes_le (g : GeometryOk s) {i : Nat} (hi : i < s.imgHeight) :
    s.rowStart i + s.header.dataBytes.toNat ≤ s.sizes.src := by
  have hdata : s.header.dataBytes.toNat ≤ s.header.stride.toNat := by
    rw [g.dataBytes, g.stride]
    exact rowDataBytes_le_rowStride s.imgWidth s.header.bpp.toNat
  have hrows : (s.imgHeight - 1 - i + 1) * s.header.stride.toNat ≤ s.imgHeight * s.header.stride.toNat :=
    Nat.mul_le_mul_right _ (by omega)
  rw [Nat.succ_mul] at hrows
  have := g.pixels
  unfold State.rowStart
  omega

/-- A row that exists has its scanline, byte for byte (R90). -/
theorem scanline_eq (g : GeometryOk s) {i : Nat} (hi : i < s.imgHeight) : scanline s i = some (scanBytes s i) := by
  have hsrc := rowStart_add_dataBytes_le g hi
  rw [scanBytes_eq_cons, scanline]
  by_cases h24 : s.header.bpp.toNat = 24
  · have hdata := dataBytes_truecolour g h24
    rw [if_pos ((bpp_eq_iff s).mpr h24), memRead_eq_some.mpr ⟨hdata ▸ hsrc, rfl⟩, hdata, mem_src]
    simp only [reorderRow_readBytes]
    simp [scanByte, h24, State.rowStart]
  · rw [if_neg (mt (bpp_eq_iff s).mp h24), memRead_eq_some.mpr ⟨hsrc, rfl⟩]
    simp [scanByte, h24, State.rowStart, Memory.readBytes]

/-! ## Writing rows (R91) -/

/-- A row that exists and fits is stored at its place in SCN. -/
theorem writeRow_eq (g : GeometryOk s) {i : Nat} (hi : i < s.imgHeight)
    (hfit : i * s.lineBytes + s.lineBytes ≤ s.sizes.scn) :
    writeRow i s = some { s with scn := Memory.writeBytes s.scn (i * s.lineBytes) (scanBytes s i) } :=
  writeRow_eq_some.mpr ⟨_, scanline_eq g hi, by rwa [scanBytes_length], rfl⟩

/-- The first `n` scanlines, one after another. -/
def scanStream (s : State) (n : Nat) : List Byte := (List.range n).flatMap (scanBytes s)

theorem scanStream_eq_map (s : State) (n : Nat) :
    scanStream s n = (List.range (n * s.lineBytes)).map (fun k => scanByte s (k / s.lineBytes) (k % s.lineBytes)) :=
  flatMap_range_map n s.lineBytes (scanByte s)

theorem scanStream_length (s : State) (n : Nat) : (scanStream s n).length = n * s.lineBytes := by
  simp [scanStream_eq_map]

theorem scanStream_succ (s : State) (n : Nat) : scanStream s (n + 1) = scanStream s n ++ scanBytes s n := by
  rw [scanStream, List.range_succ, List.flatMap_append, List.flatMap_singleton, scanStream]

theorem writeRows_append (l l' : List Nat) (s : State) :
    writeRows (l ++ l') s = (writeRows l s).bind (writeRows l') := by
  induction l generalizing s with
  | nil => rfl
  | cons i l ih =>
    simp only [List.cons_append, writeRows]
    cases writeRow i s with
    | none => rfl
    | some t => exact ih t

/-- Writing the first rows, each right behind the one before, stores their stream at the start of SCN. -/
theorem writeRows_range (g : GeometryOk s) {n : Nat} (hn : n ≤ s.imgHeight) (hfit : n * s.lineBytes ≤ s.sizes.scn) :
    writeRows (List.range n) s = some { s with scn := Memory.writeBytes s.scn 0 (scanStream s n) } := by
  induction n with
  | zero => rfl
  | succ n ih =>
    rw [Nat.succ_mul] at hfit
    rw [List.range_succ, writeRows_append, ih (by omega) (by omega), Option.bind_some, writeRows_singleton]
    refine (writeRow_eq (s := { s with scn := Memory.writeBytes s.scn 0 (scanStream s n) })
      (geometryOk_congr g rfl rfl rfl rfl rfl) hn hfit).trans ?_
    rw [scanStream_succ, writeBytes_append, Nat.zero_add, scanStream_length]
    rfl

theorem scnLen_eq_lines (g : GeometryOk s) : s.scnLen.toNat = s.imgHeight * s.lineBytes := g.scnLen

theorem writeRows_all (g : GeometryOk s) (hfit : s.scnLen.toNat ≤ s.sizes.scn) :
    writeRows (List.range s.imgHeight) s =
      some { s with scn := Memory.writeBytes s.scn 0 (scanStream s s.imgHeight) } :=
  writeRows_range g (Nat.le_refl _) (scnLen_eq_lines g ▸ hfit)

theorem exec_xall_of_fits {t : State} (hphase : s.phase ≠ .idle) (hfit : s.scnLen.toNat ≤ s.sizes.scn)
    (hrows : writeRows (List.range s.imgHeight) s = some t) : exec .xall s = .next t := by
  change execXall s = _
  rw [execXall, if_neg hphase, if_neg (Nat.not_lt_of_le hfit), hrows]
  rfl

theorem exec_xrow_of_fits {t : State} (hphase : s.phase ≠ .idle) (hi : s.arg0.toNat < s.imgHeight)
    (hfit : s.arg0.toNat * s.lineBytes + s.lineBytes ≤ s.sizes.scn) (hrow : writeRow s.arg0.toNat s = some t) :
    exec .xrow s = .next t := by
  change execXrow s = _
  rw [execXrow, if_neg hphase, if_neg (Nat.not_le_of_lt hi), if_neg (Nat.not_lt_of_le hfit), hrow]
  rfl

end Geometry

/-- Settles O41: the checks pass, and the scanline of a row that exists is stored at its place. -/
theorem xrowResult : Obligations.XrowResult := fun s hphase g hwf hi hfit =>
  ⟨_, exec_xrow_of_fits hphase hi hfit (writeRow_eq g hi hfit),
    writeBytes_stored hwf (s.arg0.toNat * s.lineBytes) (scanBytes s s.arg0.toNat), rfl⟩

/-- Settles O43: the rows make one stream at the start of SCN, in which byte `k` of row `i` is at `i * (1 + db) + k`. -/
theorem xallResult : Obligations.XallResult := by
  intro s hphase g hwf hfit
  obtain ⟨hinside, houtside⟩ := writeBytes_stored hwf 0 (scanStream s s.imgHeight)
  rw [scanStream_length, ← scnLen_eq_lines g, Nat.zero_add] at houtside
  refine ⟨_, exec_xall_of_fits hphase hfit (writeRows_all g hfit), rfl, fun i k hi hk => ?_,
    fun a ha => houtside a (.inr ha)⟩
  have hlt : i * s.lineBytes + k < s.imgHeight * s.lineBytes :=
    calc i * s.lineBytes + k < (i + 1) * s.lineBytes := by rw [Nat.succ_mul]; omega
      _ ≤ s.imgHeight * s.lineBytes := Nat.mul_le_mul_right _ hi
  have hread := hinside (i * s.lineBytes + k) (by rwa [scanStream_length])
  rw [Nat.zero_add] at hread
  rw [hread]
  simp only [scanStream_eq_map, List.getElem_map, List.getElem_range]
  obtain ⟨hdiv, hmod⟩ := block_div_mod (n := i) hk
  rw [hdiv, hmod]

/-! ## XROW of every row (R135) -/

theorem imgHeight_lt (s : State) : s.imgHeight < 2 ^ 32 := by
  have := BitVec.toInt_lt (x := s.header.height)
  unfold State.imgHeight
  omega

/-- Rows that exist and fit are written alike by XALL's rule and by XROW with ARG0 set before each. -/
theorem writeRows_and_xrowEach {rows : List Nat} {s : State} (hphase : s.phase ≠ .idle) (g : GeometryOk s)
    (hrows : ∀ i ∈ rows, i < s.imgHeight ∧ i * s.lineBytes + s.lineBytes ≤ s.sizes.scn) (a : Word) :
    ∃ a' m, writeRows rows s = some { s with scn := m } ∧
      xrowEach rows { s with arg0 := a } = .next { s with arg0 := a', scn := m } := by
  induction rows generalizing s a with
  | nil => exact ⟨a, s.scn, rfl, rfl⟩
  | cons i rows ih =>
    obtain ⟨hi, hfit⟩ := hrows i List.mem_cons_self
    have hi32 : (toReg i).toNat = i := toReg_toNat (Nat.lt_trans hi (imgHeight_lt s))
    have hrow := writeRow_eq g hi hfit
    have hxrow : exec .xrow { s with arg0 := toReg i } =
        .next { s with arg0 := toReg i, scn := Memory.writeBytes s.scn (i * s.lineBytes) (scanBytes s i) } := by
      refine exec_xrow_of_fits (s := { s with arg0 := toReg i }) hphase ?_ ?_ ?_ <;> dsimp only <;> rw [hi32]
      · exact hi
      · exact hfit
      · exact writeRow_eq (s := { s with arg0 := toReg i }) (geometryOk_congr g rfl rfl rfl rfl rfl) hi hfit
    obtain ⟨a', m, hall, heach⟩ :=
      ih (s := { s with scn := Memory.writeBytes s.scn (i * s.lineBytes) (scanBytes s i) }) hphase
        (geometryOk_congr g rfl rfl rfl rfl rfl) (fun j hj => hrows j (List.mem_cons_of_mem i hj)) (toReg i)
    refine ⟨a', m, ?_, ?_⟩
    · simp only [writeRows, hrow]
      exact hall
    · simp only [xrowEach, hxrow]
      exact heach

/-- Settles O45: every row that exists lies in the stream, so XALL's rule and the XROWs write it alike. -/
theorem xallIsXrowOfEveryRow : Obligations.XallIsXrowOfEveryRow := by
  intro s hphase g _ hfit
  have hrows : ∀ i ∈ List.range s.imgHeight,
      i < s.imgHeight ∧ i * s.lineBytes + s.lineBytes ≤ s.sizes.scn := fun i hi => by
    have hlt := List.mem_range.mp hi
    refine ⟨hlt, ?_⟩
    calc i * s.lineBytes + s.lineBytes = (i + 1) * s.lineBytes := (Nat.succ_mul i _).symm
      _ ≤ s.imgHeight * s.lineBytes := Nat.mul_le_mul_right _ hlt
      _ ≤ s.sizes.scn := scnLen_eq_lines g ▸ hfit
  obtain ⟨a', m, hall, heach⟩ := writeRows_and_xrowEach hphase g hrows s.arg0
  exact ⟨_, _, exec_xall_of_fits hphase hfit hall, heach, rfl⟩

/-! ## The errors of the transcoder (R93, R94, R124) -/

/-- Settles O42: the three checks of XROW in their order. -/
theorem xrowErrors : Obligations.XrowErrors := by
  intro s
  refine ⟨fun hidle => ?idle, fun hphase hi => ?range, fun hphase hi hfit => ?io⟩ <;> change execXrow s = _
  case idle => rw [execXrow, if_pos hidle]; rfl
  case range => rw [execXrow, if_neg hphase, if_pos hi]; rfl
  case io => rw [execXrow, if_neg hphase, if_neg (Nat.not_le_of_lt hi), if_pos hfit]; rfl

/-- Settles O44: the two checks of XALL in their order. -/
theorem xallErrors : Obligations.XallErrors := by
  intro s
  refine ⟨fun hidle => ?idle, fun hphase hfit => ?io⟩ <;> change execXall s = _
  case idle => rw [execXall, if_pos hidle]; rfl
  case io => rw [execXall, if_neg hphase, if_pos hfit]; rfl

end Sys2Proof.Proofs

namespace Sys2Proof.Proofs

open Sys2Proof.Machine Sys2Proof.Laws

/-! ## What each framer command does past its own checks (R112 to R116) -/

section Framer

variable {s : State}

theorem exec_pngsig_refused (hp : s.phase = .parsed) (hfull : s.sizes.snk < s.snkLen.toNat + 8) :
    exec .pngsig s = raise .ioError (encode .pngsig) s := by
  change execPngsig s = _
  rw [execPngsig, if_neg (not_not.mpr hp), emit_eq_none.mpr hfull]

theorem exec_pngsig_fits (hp : s.phase = .parsed) (hfit : s.snkLen.toNat + 8 ≤ s.sizes.snk) :
    exec .pngsig s = .next { s with
      snk := Memory.writeBytes s.snk s.snkLen.toNat pngSignature, snkLen := toReg (s.snkLen.toNat + 8),
      phase := .sig } := by
  change execPngsig s = _
  rw [execPngsig, if_neg (not_not.mpr hp), emit_eq_some.mpr ⟨hfit, rfl⟩]
  rfl

theorem exec_ihdr_emits (hp : s.phase = .sig) (hdim : ¬ (s.header.width = 0#32 ∨ s.header.height = 0#32)) :
    exec .ihdr s =
      emitChunk (frame typeIHDR (ihdrBody s.header)) (chunkCrc typeIHDR (ihdrBody s.header)) .hdr (encode .ihdr) s := by
  change execIhdr s = _
  rw [execIhdr, if_neg (not_not.mpr hp), if_neg hdim]

theorem paletteBody_length (hn : s.header.palEntries.toNat ≤ 256) :
    (paletteBody s).length = 3 * s.header.palEntries.toNat := by
  obtain ⟨-, -, hlen⟩ := plteBody_eq_some (s := s) (body := paletteBody s) (if_pos hn)
  exact hlen

theorem exec_plte_emits (hp : s.phase = .hdr) (hpal : s.pal = true) (hn : s.header.palEntries.toNat ≤ 256) :
    exec .plte s =
      emitChunk (frame typePLTE (paletteBody s)) (chunkCrc typePLTE (paletteBody s)) .plt (encode .plte) s := by
  have hlegal : s.plteLegal = true := by simp [State.plteLegal, hp, hpal]
  have hbody : plteBody s = some (paletteBody s) := if_pos hn
  have hthree : ¬ (paletteBody s).length % 3 ≠ 0 := by rw [paletteBody_length hn]; omega
  change execPlte s = _
  rw [execPlte, if_neg (by rw [hlegal]; exact Bool.noConfusion), hbody]
  exact if_neg hthree

theorem exec_idat_emits (hp : (s.phase = .hdr ∧ s.pal = false) ∨ s.phase = .plt)
    (hr : s.arg0.toNat + s.arg1.toNat ≤ s.sizes.pay) :
    exec .idat s = emitChunk (frame typeIDAT (Memory.readBytes s.pay s.arg0.toNat s.arg1.toNat))
      (chunkCrc typeIDAT (Memory.readBytes s.pay s.arg0.toNat s.arg1.toNat)) .dat (encode .idat) s := by
  change execIdat s = _
  rw [execIdat, if_neg (by rw [(idatLegal_iff s).mpr hp]; exact Bool.noConfusion), memRead_eq_some.mpr ⟨hr, rfl⟩]
  rfl

theorem exec_idat_outside (hp : (s.phase = .hdr ∧ s.pal = false) ∨ s.phase = .plt)
    (hr : s.sizes.pay < s.arg0.toNat + s.arg1.toNat) : exec .idat s = raise .rangeError (encode .idat) s := by
  change execIdat s = _
  rw [execIdat, if_neg (by rw [(idatLegal_iff s).mpr hp]; exact Bool.noConfusion), memRead_eq_none.mpr hr]

theorem exec_iend_emits (hp : s.phase = .dat) : exec .iend s = emitChunk iendChunk iendCrc .done (encode .iend) s := by
  change execIend s = _
  rw [execIend, if_neg (not_not.mpr hp)]

/-- A chunk that fits stands in SNK behind the stream, and SNK_LEN, LAST_CRC and PHASE are those of the command. -/
theorem emitChunk_stored (hwf : Memory.wf s.snk = true) (hz : s.sizes.wellFormed = true) {bs : List Byte}
    (crc cmd : Word) (p : Phase) (hfit : s.snkLen.toNat + bs.length ≤ s.sizes.snk) :
    ∃ t, emitChunk bs crc p cmd s = .next t ∧ Stored s.snk t.snk s.snkLen.toNat bs ∧
      t.snkLen.toNat = s.snkLen.toNat + bs.length ∧ t.lastCrc = crc ∧
      t = { s with snk := t.snk, snkLen := t.snkLen, lastCrc := crc, phase := p } := by
  have hsize := (sizes_bounds hz .snk).2
  rw [sizes_of_snk] at hsize
  exact ⟨_, emitChunk_fits hfit, writeBytes_stored hwf _ _, toReg_toNat (by omega), rfl, rfl⟩

end Framer

/-- Settles O47: PNGSIG appends the signature and keeps LAST_CRC. -/
theorem pngsigResult : Obligations.PngsigResult := by
  intro s hp hwf hz hfit
  have hsize := (sizes_bounds hz .snk).2
  rw [sizes_of_snk] at hsize
  exact ⟨_, exec_pngsig_fits hp hfit, writeBytes_stored hwf _ _, toReg_toNat (by omega), rfl⟩

/-- The bit depth and the colour type of the IHDR body, by the number of BMP_BPP (R108). -/
theorem ihdrBody_eq (h : Header) : ihdrBody h = be32 h.width ++ be32 h.height ++
    [if h.bpp.toNat = 24 then 8#8 else BitVec.ofNat 8 h.bpp.toNat, if h.bpp.toNat = 24 then 2#8 else 3#8,
      0#8, 0#8, 0#8] := by
  have hbpp : h.bpp = 24#32 ↔ h.bpp.toNat = 24 := BitVec.toNat_inj.symm
  rw [ihdrBody, ihdrDepthType]
  by_cases h24 : h.bpp.toNat = 24
  · rw [if_pos (hbpp.mpr h24), if_pos h24, if_pos h24]
  · rw [if_neg (mt hbpp.mp h24), if_neg h24, if_neg h24]
    rfl

/-- Settles O48: past its checks IHDR emits the chunk of its body. -/
theorem ihdrResult : Obligations.IhdrResult := by
  intro s hp hwf hz hwidth hheight hfit
  obtain ⟨t, hemit, hstored, hlen, hcrc, ht⟩ := emitChunk_stored (bs := frame typeIHDR (ihdrBody s.header)) hwf hz
    (chunkCrc typeIHDR (ihdrBody s.header)) (encode .ihdr) .hdr hfit
  exact ⟨t, ihdrBody s.header, (exec_ihdr_emits hp (not_or.mpr ⟨hwidth, hheight⟩)).trans hemit, ihdrBody_eq s.header,
    hstored, hlen, hcrc, hcrc ▸ ht⟩

/-- Entry `k` of the PLTE body (R109). -/
theorem flatMap_rgbEntry_entry {l : List Word} {k : Nat} (hk : k < l.length) :
    ((l.flatMap rgbEntry).drop (3 * k)).take 3 = rgbEntry l[k] := by
  induction l generalizing k with
  | nil => exact absurd hk (Nat.not_lt_zero k)
  | cons v l ih =>
    cases k with
    | zero => rfl
    | succ k => exact ih (Nat.lt_of_succ_lt_succ hk)

theorem paletteBody_entry {s : State} (k : Fin 256) (hk : k.val < s.header.palEntries.toNat) :
    ((paletteBody s).drop (3 * k.val)).take 3 = rgbEntry s.palette[k.val] := by
  have hlt : k.val < (s.palette.toList.take s.header.palEntries.toNat).length := by
    rw [List.length_take, Vector.length_toList]
    omega
  rw [paletteBody, flatMap_rgbEntry_entry hlt, List.getElem_take, Vector.getElem_toList]

/-- Settles O49: past its checks PLTE emits the chunk of its body, three bytes for each entry. -/
theorem plteResult : Obligations.PlteResult := by
  intro s hp hpal hwf hz hn hfit
  have hbody := paletteBody_length hn
  have hframe : (frame typePLTE (paletteBody s)).length = 12 + 3 * s.header.palEntries.toNat := by
    rw [frame_length, hbody]
    rfl
  obtain ⟨t, hemit, hstored, hlen, hcrc, ht⟩ := emitChunk_stored (bs := frame typePLTE (paletteBody s)) hwf hz
    (chunkCrc typePLTE (paletteBody s)) (encode .plte) .plt (by omega)
  exact ⟨t, paletteBody s, (exec_plte_emits hp hpal hn).trans hemit, hbody, paletteBody_entry, hstored, by omega, hcrc,
    hcrc ▸ ht⟩

/-- Settles O50: past its checks IDAT emits the chunk of the bytes read from PAY. -/
theorem idatResult : Obligations.IdatResult := by
  intro s hp hwf hz hr hfit
  have hframe : (frame typeIDAT (Memory.readBytes s.pay s.arg0.toNat s.arg1.toNat)).length = 12 + s.arg1.toNat := by
    rw [frame_length, readBytes_length]
    rfl
  obtain ⟨t, hemit, hstored, hlen, hcrc, ht⟩ := emitChunk_stored
    (bs := frame typeIDAT (Memory.readBytes s.pay s.arg0.toNat s.arg1.toNat)) hwf hz
    (chunkCrc typeIDAT (Memory.readBytes s.pay s.arg0.toNat s.arg1.toNat)) (encode .idat) .dat (by omega)
  exact ⟨t, _, (exec_idat_emits hp hr).trans hemit, rfl, hstored, by omega, hcrc, hcrc ▸ ht⟩

/-- Settles O51: IEND emits its twelve bytes, which are the frame of an empty body. -/
theorem iendResult : Obligations.IendResult := by
  refine ⟨iendChunk_eq_frame.symm, fun s hp hwf hz hfit => ?_⟩
  obtain ⟨t, hemit, hstored, hlen, -, ht⟩ :=
    emitChunk_stored (bs := iendChunk) hwf hz iendCrc (encode .iend) .done hfit
  exact ⟨t, (exec_iend_emits hp).trans hemit, hstored, hlen, ht⟩

/-- Settles O52: the phase check comes first in each command. -/
theorem framerSequenceErrors : Obligations.FramerSequenceErrors := by
  intro s
  refine ⟨fun hp => if_pos hp, fun hp => if_pos hp, fun hp => if_pos ?plte, fun hp => if_pos ?idat, fun hp => if_pos hp⟩
  case plte => rwa [← Bool.not_eq_true, State.plteLegal, Bool.and_eq_true, decide_eq_true_eq]
  case idat => rwa [← Bool.not_eq_true, idatLegal_iff]

/-- Settles O53: each command's own checks, then the sink's. -/
theorem framerOtherErrors : Obligations.FramerOtherErrors := by
  intro s
  refine ⟨exec_pngsig_refused, fun hp hdim => ?dimensions, fun hp hw hh hfull => ?ihdr, fun hp hpal hn hfull => ?plte,
    exec_idat_outside, fun hp hr hfull => ?idat, fun hp hfull => ?iend⟩
  case dimensions =>
    change execIhdr s = _
    rw [execIhdr, if_neg (not_not.mpr hp), if_pos hdim]
    rfl
  case ihdr => exact (exec_ihdr_emits hp (not_or.mpr ⟨hw, hh⟩)).trans (emitChunk_refused hfull)
  case plte =>
    refine (exec_plte_emits hp hpal hn).trans (emitChunk_refused ?_)
    rw [frame_length, paletteBody_length hn]
    exact Nat.add_assoc _ _ _ ▸ hfull
  case idat =>
    refine (exec_idat_emits hp hr).trans (emitChunk_refused ?_)
    rw [frame_length, readBytes_length]
    exact Nat.add_assoc _ _ _ ▸ hfull
  case iend => exact (exec_iend_emits hp).trans (emitChunk_refused hfull)

/-! ## No engine fault (R84, R90; log 11) -/

theorem emitChunk_answers (bs : List Byte) (crc cmd : Word) (p : Phase) (s : State) :
    ∃ t, emitChunk bs crc p cmd s = .next t := by
  unfold emitChunk
  cases emit bs s with
  | some t => exact ⟨_, rfl⟩
  | none => exact ⟨_, rfl⟩

theorem execXrow_answers {s : State} (hs : HeaderOk s) : ∃ t, exec .xrow s = .next t := by
  obtain ⟨hidle, hrange, hio⟩ := xrowErrors s
  by_cases hphase : s.phase = .idle
  · exact ⟨_, hidle hphase⟩
  rcases Nat.lt_or_ge s.arg0.toNat s.imgHeight with hi | hi
  · rcases Nat.lt_or_ge s.sizes.scn (s.arg0.toNat * s.lineBytes + s.lineBytes) with hfit | hfit
    · exact ⟨_, hio hphase hi hfit⟩
    · exact ⟨_, exec_xrow_of_fits hphase hi hfit (writeRow_eq (geometry_of_headerOk hs hphase) hi hfit)⟩
  · exact ⟨_, hrange hphase hi⟩

theorem execXall_answers {s : State} (hs : HeaderOk s) : ∃ t, exec .xall s = .next t := by
  obtain ⟨hidle, hio⟩ := xallErrors s
  by_cases hphase : s.phase = .idle
  · exact ⟨_, hidle hphase⟩
  rcases Nat.lt_or_ge s.sizes.scn s.scnLen.toNat with hfit | hfit
  · exact ⟨_, hio hphase hfit⟩
  · exact ⟨_, exec_xall_of_fits hphase hfit (writeRows_all (geometry_of_headerOk hs hphase) hfit)⟩

theorem execPngsig_answers (s : State) : ∃ t, exec .pngsig s = .next t := by
  obtain ⟨hsequence, -⟩ := framerSequenceErrors s
  by_cases hp : s.phase = .parsed
  · rcases Nat.lt_or_ge s.sizes.snk (s.snkLen.toNat + 8) with hfit | hfit
    · exact ⟨_, exec_pngsig_refused hp hfit⟩
    · exact ⟨_, exec_pngsig_fits hp hfit⟩
  · exact ⟨_, hsequence hp⟩

theorem execIhdr_answers (s : State) : ∃ t, exec .ihdr s = .next t := by
  obtain ⟨-, hsequence, -⟩ := framerSequenceErrors s
  obtain ⟨-, hdimensions, -⟩ := framerOtherErrors s
  by_cases hp : s.phase = .sig
  · by_cases hdim : s.header.width = 0#32 ∨ s.header.height = 0#32
    · exact ⟨_, hdimensions hp hdim⟩
    · exact exec_ihdr_emits hp hdim ▸ emitChunk_answers _ _ _ _ s
  · exact ⟨_, hsequence hp⟩

theorem execIdat_answers (s : State) : ∃ t, exec .idat s = .next t := by
  obtain ⟨-, -, -, hsequence, -⟩ := framerSequenceErrors s
  by_cases hp : (s.phase = .hdr ∧ s.pal = false) ∨ s.phase = .plt
  · rcases Nat.lt_or_ge s.sizes.pay (s.arg0.toNat + s.arg1.toNat) with hr | hr
    · exact ⟨_, exec_idat_outside hp hr⟩
    · exact exec_idat_emits hp hr ▸ emitChunk_answers _ _ _ _ s
  · exact ⟨_, hsequence hp⟩

theorem execIend_answers (s : State) : ∃ t, exec .iend s = .next t := by
  obtain ⟨-, -, -, -, hsequence⟩ := framerSequenceErrors s
  by_cases hp : s.phase = .dat
  · exact exec_iend_emits hp ▸ emitChunk_answers _ _ _ _ s
  · exact ⟨_, hsequence hp⟩

/-- R27 bounds the palette by the depth (R28). -/
theorem palEntries_le_of_geometry {s : State} (g : GeometryOk s) : s.header.palEntries.toNat ≤ 256 := by
  have hbpp := g.bpp
  simp only [List.mem_cons, List.not_mem_nil, or_false] at hbpp
  by_cases h24 : s.header.bpp.toNat = 24
  · rw [g.noPalette h24]
    exact Nat.zero_le _
  · have h8 : s.header.bpp.toNat ≤ 8 := by omega
    exact Nat.le_trans (g.palette h8).2 (Nat.pow_le_pow_right (by decide) h8)

theorem execPlte_answers {s : State} (hs : HeaderOk s) : ∃ t, exec .plte s = .next t := by
  obtain ⟨-, -, hsequence, -⟩ := framerSequenceErrors s
  by_cases hlegal : s.phase = .hdr ∧ s.pal = true
  · obtain ⟨hp, hpal⟩ := hlegal
    have hphase : s.phase ≠ .idle := by rw [hp]; exact Phase.noConfusion
    rw [exec_plte_emits hp hpal (palEntries_le_of_geometry (geometry_of_headerOk hs hphase))]
    exact emitChunk_answers _ _ _ _ s
  · exact ⟨_, hsequence hlegal⟩

/-- In a state with the header relations every command answers a next state. -/
theorem exec_answers {s : State} (hs : HeaderOk s) (i : Instr) : ∃ t, exec i s = .next t := by
  cases i with
  | parse =>
    rw [exec_parse]
    cases firstFailing (parseChecks s) with
    | none => exact ⟨_, rfl⟩
    | some e => exact ⟨_, rfl⟩
  | xrow => exact execXrow_answers hs
  | xall => exact execXall_answers hs
  | crcupd sp =>
    rcases Nat.lt_or_ge (s.sizes.of sp) (s.arg0.toNat + s.arg1.toNat) with hr | hr
    · exact ⟨_, exec_crcupd_outside hr⟩
    · exact ⟨_, exec_crcupd_inside hr⟩
  | pngsig => exact execPngsig_answers s
  | ihdr => exact execIhdr_answers s
  | plte => exact execPlte_answers hs
  | idat => exact execIdat_answers s
  | iend => exact execIend_answers s
  | _ => exact ⟨_, rfl⟩

/-! ## The host's faults (R125, R138) -/

theorem targetFault_mem_busFaults {width : Width} {z : Sizes} {tg : Target} {f : Fault}
    (h : targetFault width z tg = some f) : f ∈ busFaults := by
  cases tg <;> simp only [targetFault] at h <;> split_ifs at h <;> obtain rfl := Option.some.inj h <;> decide

theorem busAccess_error_mem {width : Width} {addr : Word} {z : Sizes} {f : Fault}
    (h : busAccess width addr z = .error f) : f ∈ busFaults := by
  unfold busAccess at h
  split at h
  · obtain rfl := Except.error.inj h
    decide
  · split at h
    · rename_i hf
      exact Except.error.inj h ▸ targetFault_mem_busFaults hf
    · cases h

theorem engineFault_of_busFault : ∀ f ∈ busFaults, engineFault (.fault f) = false := by
  simp [busFaults, engineFault]

theorem hostRead_engineFault (width : Width) (addr : Word) (s : State) :
    engineFault (hostRead width addr s) = false := by
  unfold hostRead
  split_ifs
  · rfl
  · split
    · rename_i hf
      exact engineFault_of_busFault _ (busAccess_error_mem hf)
    · rfl

theorem hostWrite_engineFault (width : Width) (addr v : Word) (s : State) :
    engineFault (hostWrite width addr v s) = false := by
  unfold hostWrite
  split_ifs
  · rfl
  · split
    · rename_i hf
      exact engineFault_of_busFault _ (busAccess_error_mem hf)
    · split_ifs <;> rfl

theorem hostMove_engineFault (s : State) : engineFault (hostMove s) = false := by
  unfold hostMove
  split
  · rfl
  · rename_i i rest _
    cases i with
    | read width addr => exact hostRead_engineFault _ _ _
    | write width addr v => exact hostWrite_engineFault _ _ _ _
    | poll | ifPal | powerOn => rfl

/-- Settles O60: the host's moves raise no fault of the engine, and with R27 every command answers a next state. -/
theorem engineStaysInsideItsSpaces : Obligations.EngineStaysInsideItsSpaces := by
  rintro s ⟨-, hs, -, -⟩
  rcases step_cases s with ⟨f, -, -, hstep⟩ | ⟨o, -, -, hstep⟩ <;> rw [hstep]
  · rcases engineStep_cases f.word s with ⟨i, -, hexec⟩ | ⟨-, -, hillegal⟩
    · have hretired : HeaderOk s.retire := headerOk_kept.outside s _ _ _ _ _ _ _ hs
      obtain ⟨t, ht⟩ := exec_answers hretired i
      rw [hexec, ht]
      rfl
    · rw [hillegal]
      rfl
  · exact hostMove_engineFault _

end Sys2Proof.Proofs

namespace Sys2Proof.Proofs

open Sys2Proof.Machine Sys2Proof.Laws

/-! ## The engine's step (R119, R137) -/

/-- Settles O8: the engine performs the command the word decodes to. -/
theorem stepRunsTheDecodedCommand : Obligations.StepRunsTheDecodedCommand := by
  intro s f i hf hwait hdecode
  rw [step_of_due hf hwait, engineStep, hdecode]
  rfl

/-- Settles O9: the engine raises IllegalCommand for a word of no command. -/
theorem illegalWordRaisesIllegalCommand : Obligations.IllegalWordRaisesIllegalCommand := by
  intro s f why hf hwait hdecode
  rw [step_of_due hf hwait, engineStep, hdecode]
  rfl

/-! ## A taken command waits and is performed (R142; log 5) -/

/-- STATUS looks at PAL, PHASE, the error held and whether a command is in flight (R21). -/
theorem statusWord_congr {s t : State} (hpal : t.pal = s.pal) (hphase : t.phase = s.phase) (herr : t.err = s.err)
    (hbusy : t.inFlight.isSome = s.inFlight.isSome) : t.statusWord = s.statusWord := by
  simp only [State.statusWord, State.errCode, State.errFlag, State.busy, hpal, hphase, herr, hbusy]

theorem hostMove_cons {s : State} {i : Input} {rest : List Input} (h : s.inputs = i :: rest) :
    hostMove s = hostInput i rest s := by
  simp only [hostMove, h]

/-- With a command in flight that waits, a step is the host's next input, the wait one less. -/
theorem step_input_waiting {s : State} {w : Word} {n : Nat} {i : Input} {rest : List Input}
    (hf : s.inFlight = some { word := w, wait := n + 1 }) (hi : s.inputs = i :: rest) :
    step s = hostInput i rest { s with inFlight := some { word := w, wait := n } } :=
  (step_of_waiting hf).trans (hostMove_cons hi)

/-- STATUS does not change while the command in flight waits. -/
theorem statusWord_of_waiting {s : State} {w : Word} {n m : Nat} (hf : s.inFlight = some { word := w, wait := n })
    (l : List Input) (v : Word) :
    State.statusWord { s with inFlight := some { word := w, wait := m }, inputs := l, lastRead := v } = s.statusWord :=
  statusWord_congr rfl rfl rfl (by rw [hf]; rfl)

/-- A poll while the command in flight waits: the host sees STATUS, and the wait goes down. -/
theorem step_poll_waiting {s : State} {w : Word} {n : Nat} {rest : List Input}
    (hf : s.inFlight = some { word := w, wait := n + 1 }) (hi : s.inputs = .poll :: rest) :
    step s = .next { s with inFlight := some { word := w, wait := n }, lastRead := s.statusWord } := by
  rw [step_input_waiting hf hi, ← statusWord_of_waiting (m := n) hf s.inputs s.lastRead]
  rfl

/-- The step after a run. -/
theorem run_succ_of_run {M : Host.Core} {s t : M.State} {n : Nat} (h : M.run n s = .next t) :
    M.run (n + 1) s = M.step t := by
  induction n generalizing s with
  | zero =>
    obtain rfl : s = t := by injection h
    simp only [Host.Core.run]
    cases M.step s <;> rfl
  | succ n ih =>
    rw [Host.Core.run] at h ⊢
    cases hs : M.step s with
    | next u => rw [hs] at h; exact ih h
    | fault r => rw [hs] at h; cases h
    | refused r => rw [hs] at h; cases h

/-- While the host polls, a wait of `n` runs down in `n` steps. -/
theorem run_polls {n : Nat} {s : State} {w : Word} {rest : List Input}
    (hf : s.inFlight = some { word := w, wait := n }) (hi : s.inputs = .poll :: rest) :
    Host.Core.run Sys2Proof.core n s = .next { s with
      inFlight := some { word := w, wait := 0 }, lastRead := if n = 0 then s.lastRead else s.statusWord } := by
  induction n generalizing s with
  | zero =>
    rw [if_pos rfl, ← hf]
    rfl
  | succ n ih =>
    have hlast := ih (s := { s with inFlight := some { word := w, wait := n }, lastRead := s.statusWord }) rfl hi
    rw [statusWord_of_waiting hf s.inputs, ite_self] at hlast
    rw [run_next (M := Sys2Proof.core) n (step_poll_waiting hf hi), if_neg n.succ_ne_zero]
    exact hlast

/-- Settles O14: the wait runs down, and the step after that is the engine's. -/
theorem takenCommandIsPerformed : Obligations.TakenCommandIsPerformed := by
  rintro n s u w rest hf hi rfl
  have hrun := run_polls hf hi
  refine ⟨hrun, fun i hdecode => (run_succ_of_run hrun).trans ?_, fun why hdecode => (run_succ_of_run hrun).trans ?_⟩
  · exact stepRunsTheDecodedCommand { s with inFlight := some { word := w, wait := 0 }, lastRead := _ }
      { word := w, wait := 0 } i rfl rfl hdecode
  · exact illegalWordRaisesIllegalCommand { s with inFlight := some { word := w, wait := 0 }, lastRead := _ }
      { word := w, wait := 0 } why rfl rfl hdecode

/-! ## The host's step with BUSY = 0 -/

/-- Settles O15: with nothing in flight the step is the host's, which has no move but the poll. -/
theorem idleBlockKeepsItsState : Obligations.IdleBlockKeepsItsState := by
  refine fun s h => ⟨fun hi => ?_, fun rest hi => ?_⟩
  · rw [step, turn, h]
    simp only [hostMove, hi]
  · have hb : s.busy = false := by rw [State.busy, h]; rfl
    rw [step_of_idle h hi]
    simp only [hostInput, hb]
    rfl

/-- Settles O10: the write reaches CMD, and the word is not dropped. -/
theorem commandWriteTakesTheWord : Obligations.CommandWriteTakesTheWord := by
  intro s w rest h hw hi
  have htaken : ({ s with inputs := rest } : State).drops w = false := by
    rcases hw with hnone | rfl
    · simp only [State.drops, State.errFlag, hnone, Option.isSome_none, Bool.false_and]
    · rw [State.drops, encode_reset, bne_self_eq_false, Bool.and_false]
  obtain ⟨h4, hlt⟩ := offset_aligned .cmd
  rw [step_register_write h h4 hlt hi, regWrite_offset, Reg.write, State.writeCmd, htaken]
  rfl

/-- A host write at the offset of a register does what the register does with it. -/
theorem step_write_at_offset {s : State} {rest : List Input} {v : Word} (r : Reg) (h : s.inFlight = none)
    (hi : s.inputs = .write .b32 (BitVec.ofNat 32 r.offset) v :: rest) :
    step s = .next (r.write { s with inputs := rest } v) := by
  obtain ⟨h4, hlt⟩ := offset_aligned r
  rw [step_register_write h h4 hlt hi, regWrite_offset]

/-- Settles O19: the three addresses are those of the operand registers. -/
theorem hostWritesTheOperandRegisters : Obligations.HostWritesTheOperandRegisters := fun _ _ _ h =>
  ⟨step_write_at_offset .arg0 h, step_write_at_offset .arg1 h, step_write_at_offset .srcLen h⟩

/-- Settles O25: a read is a bus error, or changes only what the host saw. -/
theorem hostReadsHaveNoSideEffect : Obligations.HostReadsHaveNoSideEffect := by
  intro s t width addr rest h hi ht
  cases hb : busAccess width addr s.sizes with
  | error f =>
    rw [step_host_fault (v := 0#32) h (.inl hi) hb] at ht
    cases ht
  | ok tg =>
    rw [step_host_read h hi hb] at ht
    obtain rfl := next_inj ht
    rfl

/-- Settles O7: the expansions are the table's, and the conditional statement reads STATUS and looks at PAL. -/
theorem pseudoInstructionsExpand : Obligations.PseudoInstructionsExpand := by
  refine ⟨fun _ _ _ _ _ => ⟨rfl, rfl, rfl, rfl, rfl, rfl⟩, rfl, fun s w rest h hi => ?_⟩
  exact step_of_idle h hi

/-! ## The host while BUSY = 1 (R138) -/

theorem isStatusRead_iff (width : Width) (addr : Word) :
    isStatusRead width addr = true ↔ width = .b32 ∧ addr = 0x00000008#32 := by
  rw [isStatusRead, Bool.and_eq_true, decide_eq_true_iff, decide_eq_true_iff, ← BitVec.toNat_inj]
  rfl

/-! ## The STATUS word (R21) -/

theorem extractLsb'_low {n k : Nat} (x : BitVec n) (y : BitVec k) : (x ++ y).extractLsb' 0 k = y :=
  (BitVec.extractLsb'_append_eq_of_add_le (by omega)).trans BitVec.extractLsb'_eq_self

theorem extractLsb'_high {n k start len : Nat} (x : BitVec n) (y : BitVec k) (h : k ≤ start) :
    (x ++ y).extractLsb' start len = x.extractLsb' (start - k) len := BitVec.extractLsb'_append_eq_of_le h

/-- The numbers of the errors (R117 of 60_exceptions.md). -/
theorem errCode_code : ∀ p ∈ [(ErrCode.invalidSignature, 1#4), (.unsupportedHeader, 2#4), (.unsupportedCompression, 3#4),
    (.truncatedData, 4#4), (.invalidDimensions, 5#4), (.invalidPalette, 6#4), (.ioError, 7#4), (.sequenceError, 8#4),
    (.illegalCommand, 9#4), (.rangeError, 10#4)], p.1.code = p.2 := by decide

/-- The numbers of the phases (R22 of 10_state.md). -/
theorem phase_code : ∀ p ∈ [(Phase.idle, 0#3), (.parsed, 1#3), (.sig, 2#3), (.hdr, 3#3), (.plt, 4#3), (.dat, 5#3),
    (.done, 6#3)], p.1.code = p.2 := by decide

/-- The flags of STATUS, bits [1:0]. -/
theorem statusWord_flags (s : State) :
    s.statusWord.getLsbD 0 = s.inFlight.isSome ∧ s.statusWord.getLsbD 1 = s.err.isSome := by
  constructor
  · refine BitVec.getLsbD_append.trans ?_
    simp [State.busy]
  · refine BitVec.getLsbD_append.trans (BitVec.getLsbD_append.trans ?_)
    simp [State.errFlag]

/-- STATUS above its flags. -/
def statusFields (s : State) : BitVec 30 := 0#20 ++ BitVec.ofBool s.pal ++ s.phase.code ++ s.errCode ++ 0#2

theorem statusWord_extractLsb' (s : State) {start : Nat} (len : Nat) (h : 2 ≤ start) :
    s.statusWord.extractLsb' start len = (statusFields s).extractLsb' (start - 2) len :=
  (extractLsb'_high _ _ (by omega)).trans (extractLsb'_high _ _ (by omega))

/-- The fields of STATUS above the flags, from the lowest. -/
theorem statusFields_extractLsb' (s : State) :
    (statusFields s).extractLsb' 0 2 = 0#2 ∧ (statusFields s).extractLsb' 2 4 = s.errCode ∧
    (statusFields s).extractLsb' 6 3 = s.phase.code ∧ (statusFields s).extractLsb' 9 1 = BitVec.ofBool s.pal ∧
    (statusFields s).extractLsb' 10 20 = 0#20 := by
  refine ⟨extractLsb'_low _ _, (extractLsb'_high _ _ (by decide)).trans (extractLsb'_low _ _), ?phase, ?pal, ?top⟩
  case phase =>
    calc (statusFields s).extractLsb' 6 3
        = (0#20 ++ BitVec.ofBool s.pal ++ s.phase.code ++ s.errCode).extractLsb' 4 3 := extractLsb'_high _ _ (by decide)
      _ = (0#20 ++ BitVec.ofBool s.pal ++ s.phase.code).extractLsb' 0 3 := extractLsb'_high _ _ (by decide)
      _ = s.phase.code := extractLsb'_low _ _
  case pal =>
    calc (statusFields s).extractLsb' 9 1
        = (0#20 ++ BitVec.ofBool s.pal ++ s.phase.code ++ s.errCode).extractLsb' 7 1 := extractLsb'_high _ _ (by decide)
      _ = (0#20 ++ BitVec.ofBool s.pal ++ s.phase.code).extractLsb' 3 1 := extractLsb'_high _ _ (by decide)
      _ = (0#20 ++ BitVec.ofBool s.pal).extractLsb' 0 1 := extractLsb'_high _ _ (by decide)
      _ = BitVec.ofBool s.pal := extractLsb'_low _ _
  case top =>
    calc (statusFields s).extractLsb' 10 20
        = (0#20 ++ BitVec.ofBool s.pal ++ s.phase.code ++ s.errCode).extractLsb' 8 20 := extractLsb'_high _ _ (by decide)
      _ = (0#20 ++ BitVec.ofBool s.pal ++ s.phase.code).extractLsb' 4 20 := extractLsb'_high _ _ (by decide)
      _ = (0#20 ++ BitVec.ofBool s.pal).extractLsb' 1 20 := extractLsb'_high _ _ (by decide)
      _ = (0#20).extractLsb' 0 20 := extractLsb'_high _ _ (by decide)
      _ = 0#20 := BitVec.extractLsb'_eq_self

/-- Settles O16: STATUS is its fields, one after another, and the codes are those of R117 and R22. -/
theorem statusWordLayout : Obligations.StatusWordLayout := by
  refine ⟨by decide, fun s => ?_⟩
  obtain ⟨hbusy, herr⟩ := statusWord_flags s
  obtain ⟨hreserved, hcode, hphase, hpal, htop⟩ := statusFields_extractLsb' s
  refine ⟨hbusy, herr, ?_, fun hnone => ?_, fun p hp hs => ?_, fun p hp hs => ?_, ?_, ?_⟩
  · rw [statusWord_extractLsb' s 2 (by decide), hreserved]
  · rw [statusWord_extractLsb' s 4 (by decide), hcode, State.errCode, hnone]
  · rw [statusWord_extractLsb' s 4 (by decide), hcode, State.errCode, hs]
    exact errCode_code p hp
  · rw [statusWord_extractLsb' s 3 (by decide), hphase, hs]
    exact phase_code p hp
  · have hbit := congrArg (BitVec.getLsbD · 0) ((statusWord_extractLsb' s 1 (start := 11) (by decide)).trans hpal)
    simpa using hbit
  · rw [statusWord_extractLsb' s 20 (by decide), htop]

/-- A state in which the command in flight waits is busy. -/
theorem busy_of_waiting (s : State) (w : Word) (n : Nat) (l : List Input) :
    (State.setInputs { s with inFlight := some { word := w, wait := n } } l).busy = true := rfl

/-- Settles O24: while BUSY = 1 the host may read STATUS and nothing else. -/
theorem busyHazardFaultsTheHost : Obligations.BusyHazardFaultsTheHost := by
  intro s w n width addr v rest hf
  refine ⟨fun hi haccess => ?_, fun hi => ?_, fun hi => ⟨?_, ?_⟩⟩
  · have hother : isStatusRead width addr = false := Bool.eq_false_iff.mpr (mt (isStatusRead_iff width addr).mp haccess)
    rw [step_input_waiting hf hi, hostInput, hostRead, busy_of_waiting, hother]
    rfl
  · rw [step_input_waiting hf hi]
    rfl
  · have haccess : busAccess .b32 0x00000008#32 s.sizes = .ok (.reg (Reg.offset .status)) :=
      busAccess_reg (by decide) (by decide)
    rw [step_input_waiting hf hi, hostInput, hostRead, busy_of_waiting, (isStatusRead_iff _ _).mpr ⟨rfl, rfl⟩,
      setInputs_sizes, haccess, ← statusWord_of_waiting (m := n) hf rest s.lastRead]
    rfl
  · obtain ⟨hbusy, -⟩ := statusWord_flags s
    rw [hbusy, hf]
    rfl

end Sys2Proof.Proofs

namespace Sys2Proof.Proofs

open Sys2Proof.Machine Sys2Proof.Laws

/-! ## The register map (R16) -/

theorem regAt_unnamed {off : Nat} (h : UnnamedOffset off) : regAt off = none := by
  obtain ⟨-, hlo, hhi⟩ := h
  have hgap : ∀ r ∈ Reg.named, r.offset < 0x030 ∨ 0x040 ≤ r.offset := by decide
  unfold regAt
  rw [if_neg (by omega), List.find?_eq_none]
  intro r hr
  have := hgap r hr
  simp only [beq_iff_eq]
  omega

/-- Settles O17: a register is found at its offset, an aligned offset finds the register that stands there, and the table
is what the named registers read. -/
theorem registerMapIsOneToOne : Obligations.RegisterMapIsOneToOne := by
  refine ⟨fun r => ⟨regAt_offset r, offset_aligned r⟩, fun _ _ => offset_of_regAt, fun s p hp => ?_,
    fun s k => regRead_offset (.palette k) s, fun _ => regAt_reserved, fun _ => regAt_unnamed⟩
  obtain ⟨r, rfl⟩ := exists_reg_of_mem_registerTable hp
  exact regRead_offset r s

/-! ## Reset values (R32, R132, R133) -/

/-- The reset column of R16, by the offsets. -/
theorem resetValue_eq (r : Reg) : r.resetValue =
    if r.offset = 0x000 then 0x00000007#32 else if r.offset = 0x020 then 0xFFFFFFFF#32 else 0x00000000#32 := by
  cases r with
  | palette k =>
    have h0 : Reg.offset (.palette k) ≠ 0x000 := by simp only [Reg.offset]; omega
    have h1 : Reg.offset (.palette k) ≠ 0x020 := by simp only [Reg.offset]; omega
    rw [if_neg h0, if_neg h1]
    rfl
  | _ => rfl

theorem registersReset_of_read {s : State} (h : ∀ r : Reg, r.read s = r.resetValue) : RegistersReset s := by
  refine ⟨fun p hp => ?_, fun k => h (.palette k)⟩
  obtain ⟨r, rfl⟩ := exists_reg_of_mem_registerTable hp
  exact (h r).trans (resetValue_eq r)

/-- Power-on gives every register its reset value, whatever the sizes, the memories and the outside are. -/
theorem read_powerOn (z : Sizes) (src scn pay snk : Memory) (d : List Nat) (l : List Input) (v : Word) (r : Reg) :
    r.read { State.powerOn z src scn pay snk with delays := d, inputs := l, lastRead := v } = r.resetValue := by
  cases r with
  | palette k => exact Vector.getElem_replicate k.isLt
  | status => exact (statusWord_congr (s := State.reset) rfl rfl rfl rfl).trans statusWordLayout.1
  | _ => rfl

theorem read_cleared (s : State) (r : Reg) : r.read s.cleared = r.resetValue := read_powerOn _ _ _ _ _ _ _ _ r

theorem read_repowered (s : State) (c : Draw) (r : Reg) : r.read (s.repowered c) = r.resetValue :=
  read_powerOn _ _ _ _ _ _ _ _ r

/-- Settles O27: RESET clears the registers and keeps the memories, the parameters and the outside. -/
theorem resetCommandResult : Obligations.ResetCommandResult := fun s =>
  ⟨s.cleared, rfl, registersReset_of_read (read_cleared s), read_cleared s, rfl, fun sp => by cases sp <;> rfl, rfl, rfl,
    rfl, rfl⟩

/-- The memory that holds given bytes from address 0 on reads as they do, and as unlisted past their end. -/
theorem read_ofBytes {size a : Nat} (bs : List Byte) (ha : a < size) :
    Memory.read (Memory.ofBytes size bs) a = bs.getD a Config.unlistedByte := by
  obtain ⟨hinside, houtside⟩ := writeBytes_stored (m := []) rfl 0 (bs.take size)
  rcases Nat.lt_or_ge a bs.length with hlt | hge
  · have hread := hinside a (by rw [List.length_take]; omega)
    rw [Nat.zero_add, List.getElem_take] at hread
    rw [List.getD_eq_getElem _ _ hlt]
    exact hread
  · rw [List.getD_eq_default _ _ hge]
    exact houtside a (.inr (by rw [List.length_take]; omega))

/-- Settles O26: power-on is a move of the host, and leaves the registers reset and the bytes it brings. -/
theorem powerOnResetsEveryRegister : Obligations.PowerOnResetsEveryRegister := by
  have hreset : ∀ r : Reg, r.read State.reset = r.resetValue :=
    read_powerOn Config.vectorSizes [] [] [] [] [] [] 0#32
  refine ⟨registersReset_of_read hreset, hreset, fun s c rest hf hi => ?_⟩
  obtain ⟨u, hstep, hsizes⟩ : ∃ u : State, step s = .next ((u.setInputs rest).repowered c) ∧ u.sizes = s.sizes := by
    rcases hf with hnone | ⟨w, n, hwait⟩
    · exact ⟨s, step_of_idle hnone hi, rfl⟩
    · exact ⟨_, step_input_waiting hwait hi, rfl⟩
  refine ⟨_, hstep, registersReset_of_read (read_repowered _ c), read_repowered _ c, rfl, hsizes, rfl, ?_⟩
  rw [repowered_src, repowered_scn, repowered_pay, repowered_snk, setInputs_sizes, hsizes]
  exact ⟨fun _ => read_ofBytes _, fun _ => read_ofBytes _, fun _ => read_ofBytes _, fun _ => read_ofBytes _⟩

/-! ## Host accesses to the memories (R33, R35, R36, R37, R41) -/

section HostMemory

variable {s : State} {sp : Space} {a : Nat} {width : Width} {v : Word} {rest : List Input}

/-- A host write to bytes that exist of SRC or PAY stores them; to SCN or SNK it is a bus error. -/
theorem step_memory_write (h : s.inFlight = none) (hz : s.sizes.wellFormed = true)
    (hw : width = .b8 ∨ (width = .b32 ∧ a % 4 = 0)) (ha : a + width.bytes ≤ s.sizes.of sp)
    (hi : s.inputs = .write width (BitVec.ofNat 32 (windowBase sp + a)) v :: rest) :
    step s = if hostWritable sp then .next (State.setMem { s with inputs := rest } sp
        (Memory.writeBytes (s.mem sp) a (writtenBytes width v)))
      else .fault .busReadOnly := by
  rw [step_host_write h hi (busAccess_mem hz hw ha)]
  cases sp <;> rfl

/-- What a store to a space that takes host writes leaves. -/
theorem step_memory_store (h : s.inFlight = none) (hz : s.sizes.wellFormed = true) (hsp : hostWritable sp = true)
    (hwf : Memory.wf (s.mem sp) = true) (hw : width = .b8 ∨ (width = .b32 ∧ a % 4 = 0))
    (ha : a + width.bytes ≤ s.sizes.of sp)
    (hi : s.inputs = .write width (BitVec.ofNat 32 (windowBase sp + a)) v :: rest) :
    ∃ t, step s = .next t ∧ Stored (s.mem sp) (t.mem sp) a (writtenBytes width v) ∧
      t = State.setMem { s with inputs := rest } sp (t.mem sp) := by
  rw [step_memory_write h hz hw ha hi, if_pos hsp]
  refine ⟨_, rfl, ?_, ?_⟩ <;> rw [setMem_mem_self]
  exact writeBytes_stored hwf _ _

/-- A host read of bytes that exist answers them and changes nothing in the block. -/
theorem step_memory_read (h : s.inFlight = none) (hz : s.sizes.wellFormed = true)
    (hw : width = .b8 ∨ (width = .b32 ∧ a % 4 = 0)) (ha : a + width.bytes ≤ s.sizes.of sp)
    (hi : s.inputs = .read width (BitVec.ofNat 32 (windowBase sp + a)) :: rest) :
    step s = .next { s with inputs := rest, lastRead := targetRead width s (.mem sp a) } :=
  step_host_read h hi (busAccess_mem hz hw ha)

/-- Byte `k` of a word read, the lowest address in bits [7:0] (R41). -/
theorem hostWord_byte (m : Memory) (a k : Nat) (hk : k < 4) :
    (hostWord m a).extractLsb' (8 * k) 8 = Memory.read m (a + k) := by
  match k, hk with
  | 0, _ => exact extractLsb'_low _ _
  | 1, _ => exact (extractLsb'_high _ _ (by decide)).trans (extractLsb'_low _ _)
  | 2, _ =>
    exact (extractLsb'_high _ _ (by decide)).trans ((extractLsb'_high _ _ (by decide)).trans (extractLsb'_low _ _))
  | 3, _ =>
    exact (extractLsb'_high _ _ (by decide)).trans ((extractLsb'_high _ _ (by decide)).trans
      ((extractLsb'_high _ _ (by decide)).trans BitVec.extractLsb'_eq_self))

theorem targetRead_byte (s : State) (sp : Space) (a : Nat) :
    (targetRead .b8 s (.mem sp a)).extractLsb' 0 8 = Memory.read (s.mem sp) a := by
  change ((Memory.read (s.mem sp) a).zeroExtend 32).extractLsb' 0 8 = _
  ext k hk
  simp [hk, Nat.lt_trans hk (show 8 < 32 by decide)]

theorem step_word_read (h : s.inFlight = none) (hz : s.sizes.wellFormed = true) (h4 : a % 4 = 0)
    (ha : a + 4 ≤ s.sizes.of sp) (hi : s.inputs = .read .b32 (BitVec.ofNat 32 (windowBase sp + a)) :: rest) :
    ∃ t, step s = .next t ∧ t = { s with inputs := rest, lastRead := t.lastRead } ∧
      ∀ k, k < 4 → t.lastRead.extractLsb' (8 * k) 8 = Memory.read (s.mem sp) (a + k) :=
  ⟨_, step_memory_read h hz (.inr ⟨rfl, h4⟩) ha hi, rfl, hostWord_byte (s.mem sp) a⟩

end HostMemory

/-- Settles O20: the byte written is bits [7:0] of the datum, stored where the address says. -/
theorem hostStoresBytesInSrcAndPay : Obligations.HostStoresBytesInSrcAndPay := by
  intro s sp base a v rest h hsp hz hwf ha hi
  have hspace : base = windowBase sp ∧ hostWritable sp = true := by
    simp only [List.mem_cons, Prod.mk.injEq, List.not_mem_nil, or_false] at hsp
    rcases hsp with ⟨rfl, rfl⟩ | ⟨rfl, rfl⟩ <;> exact ⟨rfl, rfl⟩
  obtain ⟨rfl, hwritable⟩ := hspace
  exact step_memory_store (width := .b8) h hz hwritable hwf (.inl rfl) ha hi

/-- Settles O21: the bytes of a 32-bit access, lowest address first. -/
theorem hostWordsAreLittleEndian : Obligations.HostWordsAreLittleEndian := by
  intro s sp base a v rest h hsp hz h4 ha
  obtain rfl : base = windowBase sp := mem_spaceWindows.mp hsp
  refine ⟨fun hwritable hwf hi => ?_, step_word_read h hz h4 ha⟩
  have hwritable' : hostWritable sp = true := by rcases hwritable with rfl | rfl <;> rfl
  exact step_memory_store (width := .b32) h hz hwritable' hwf (.inr ⟨rfl, h4⟩) ha hi

/-- Settles O22: a write reaches a space that takes none, and a read reaches any space. -/
theorem scnAndSnkTakeNoHostWrites : Obligations.ScnAndSnkTakeNoHostWrites := by
  intro s sp base a v rest h hsp hz ha
  obtain rfl : base = windowBase sp := mem_spaceWindows.mp hsp
  refine ⟨fun hreadOnly => ?_, fun hi => ?_, fun h4 ha4 => step_word_read h hz h4 ha4⟩
  · have hnone : ¬ hostWritable sp = true := by rcases hreadOnly with rfl | rfl <;> exact Bool.noConfusion
    refine ⟨fun hi => ?_, fun h4 ha4 hi => ?_⟩
    · rw [step_memory_write (width := .b8) h hz (.inl rfl) ha hi, if_neg hnone]
    · rw [step_memory_write (width := .b32) h hz (.inr ⟨rfl, h4⟩) ha4 hi, if_neg hnone]
  · exact ⟨_, step_memory_read (width := .b8) h hz (.inl rfl) ha hi, rfl, targetRead_byte s sp a⟩

/-! ## Which host accesses are bus errors (R35, R36, R37, R125) -/

theorem targetFault_reg_eq_none {width : Width} {z : Sizes} {off : Nat} :
    targetFault width z (.reg off) = none ↔ width = .b32 ∧ off % 4 = 0 := by
  rw [targetFault]
  split_ifs with hw h4
  · exact iff_of_false nofun fun h => hw h.1
  · exact iff_of_false nofun fun h => h4 h.2
  · exact iff_of_true rfl ⟨not_not.mp hw, not_not.mp h4⟩

theorem hostWritable_iff (sp : Space) : hostWritable sp = true ↔ sp = .src ∨ sp = .pay := by
  cases sp <;> decide

/-- The widths that memory takes, and the bytes that must exist (R35, R36; log 9). -/
theorem targetFault_mem_iff {width : Width} {z : Sizes} {sp : Space} {off : Nat} :
    targetFault width z (.mem sp off) = none ↔ (width = .b8 ∧ off < z.of sp) ∨
      (width = .b32 ∧ (windowBase sp + off) % 4 = 0 ∧ off + 3 < z.of sp) := by
  have hbase : (windowBase sp + off) % 4 = off % 4 := by cases sp <;> simp only [windowBase] <;> omega
  rw [targetFault_mem_eq_none, hbase]
  cases width <;> simp [Width.bytes]
  omega

/-- The admitted accesses are those that reach a target which takes them. -/
theorem legalAccess_iff (z : Sizes) (write : Bool) (width : Width) (a : Nat) : LegalAccess z write width a ↔
    ∃ tg, busTarget a = some tg ∧ targetFault width z tg = none ∧ (write = true → tg.takesWrites = true) := by
  constructor
  · rintro (⟨hlt, haccess⟩ | ⟨sp, base, hbase, hlo, hhi, hwrite, haccess⟩)
    · exact ⟨.reg a, busTarget_reg hlt, targetFault_reg_eq_none.mpr haccess, fun _ => rfl⟩
    · obtain rfl := mem_spaceWindows.mp hbase
      obtain ⟨off, rfl⟩ := Nat.exists_eq_add_of_le hlo
      rw [Nat.add_sub_cancel_left] at haccess
      exact ⟨.mem sp off, busTarget_window (by omega), targetFault_mem_iff.mpr haccess,
        fun h => (hostWritable_iff sp).mpr (hwrite h)⟩
  · rintro ⟨tg, htarget, hfault, hwrite⟩
    cases tg with
    | reg off =>
      obtain ⟨rfl, hlt⟩ := busTarget_eq_reg htarget
      exact .inl ⟨hlt, targetFault_reg_eq_none.mp hfault⟩
    | mem sp off =>
      obtain ⟨rfl, hoff⟩ := busTarget_eq_mem htarget
      refine .inr ⟨sp, windowBase sp, mem_spaceWindows.mpr rfl, Nat.le_add_right _ _, by omega,
        fun h => (hostWritable_iff sp).mp (hwrite h), ?_⟩
      rw [Nat.add_sub_cancel_left]
      exact targetFault_mem_iff.mp hfault

theorem busAccess_eq_ok {width : Width} {addr : Word} {z : Sizes} {tg : Target} :
    busAccess width addr z = .ok tg ↔ busTarget addr.toNat = some tg ∧ targetFault width z tg = none := by
  unfold busAccess
  split
  · rename_i hnone
    exact iff_of_false nofun fun ⟨h, _⟩ => by rw [hnone] at h; cases h
  · rename_i tg' htarget
    rw [htarget, Option.some.injEq]
    split
    · rename_i f hf
      refine iff_of_false nofun fun ⟨htg, hnone⟩ => ?_
      rw [← htg, hf] at hnone
      cases hnone
    · rename_i hf
      exact ⟨fun h => Except.ok.inj h ▸ ⟨rfl, hf⟩, fun ⟨h, _⟩ => congrArg Except.ok h⟩

theorem legalAccess_iff_busAccess (z : Sizes) (write : Bool) (width : Width) (addr : Word) :
    LegalAccess z write width addr.toNat ↔
      ∃ tg, busAccess width addr z = .ok tg ∧ (write = true → tg.takesWrites = true) := by
  simp only [legalAccess_iff, busAccess_eq_ok, and_assoc]

/-- A host access to a byte of a space at or past its size is a bus error, however large the address (R35; log 25). -/
theorem busAccess_spaceAddr_error {z : Sizes} {sp : Space} {a : Nat} (ha : z.of sp ≤ a) :
    ∃ f, busAccess .b8 (spaceAddr sp a) z = .error f := by
  rcases Nat.lt_or_ge a windowBytes with hlt | hge
  · have hwindow : a < 0x10000000 := hlt
    have haddr : (spaceAddr sp a).toNat = windowBase sp + a := by
      rw [spaceAddr, if_pos hlt, toReg_toNat]
      cases sp <;> simp only [windowBase] <;> omega
    refine ⟨.busPastSize, ?_⟩
    rw [busAccess, haddr, busTarget_window hwindow]
    simp [targetFault, Width.bytes, Nat.lt_succ_of_le ha]
  · exact ⟨_, busAccess_past .b8 hge⟩

/-- Settles O23: an access goes on exactly when it reaches a target that takes it. -/
theorem busErrorsAreExactlyTheIllegalAccesses : Obligations.BusErrorsAreExactlyTheIllegalAccesses := by
  intro s width addr v rest h
  refine ⟨fun hi => ?read, fun hi => ?write, fun sp a b ha hi => ?mw⟩
  case read =>
    rw [legalAccess_iff_busAccess]
    cases hb : busAccess width addr s.sizes with
    | ok tg => exact ⟨fun _ => ⟨_, step_host_read h hi hb⟩, fun hno => absurd ⟨tg, rfl, nofun⟩ hno⟩
    | error f =>
      exact ⟨fun ⟨_, htg, _⟩ => (by cases htg),
        fun _ => ⟨f, busAccess_error_mem hb, step_host_fault (v := v) h (.inl hi) hb⟩⟩
  case write =>
    rw [legalAccess_iff_busAccess]
    cases hb : busAccess width addr s.sizes with
    | ok tg =>
      rw [step_host_write h hi hb]
      cases htakes : tg.takesWrites with
      | true => exact ⟨fun _ => ⟨_, if_pos rfl⟩, fun hno => absurd ⟨tg, rfl, fun _ => htakes⟩ hno⟩
      | false =>
        refine ⟨fun ⟨tg', htg, htakes'⟩ => ?_, fun _ => ⟨.busReadOnly, by decide, rfl⟩⟩
        obtain rfl := Except.ok.inj htg
        exact absurd (htakes' rfl) (by rw [htakes]; exact Bool.noConfusion)
    | error f =>
      exact ⟨fun ⟨_, htg, _⟩ => (by cases htg),
        fun _ => ⟨f, busAccess_error_mem hb, step_host_fault h (.inr hi) hb⟩⟩
  case mw =>
    obtain ⟨f, hf⟩ := busAccess_spaceAddr_error ha
    exact ⟨f, busAccess_error_mem hf, step_host_fault h (.inr hi) hf⟩

/-! ## A CRC over several commands (R97) -/

/-- A command that folds bytes writes CRC_ACC only. -/
theorem exec_folds {s : State} {i : Instr} (h : foldsBytes s i = true) :
    exec i s = .next { s with crcAcc := crcAccum s.crcAcc (foldedBytes s i) } := by
  cases i with
  | crcb b => rfl
  | crcupd sp => exact exec_crcupd_inside (of_decide_eq_true h)
  | _ => cases h

theorem crcAccum_append (c : Word) (bs cs : List Byte) : crcAccum c (bs ++ cs) = crcAccum (crcAccum c bs) cs :=
  List.foldl_append

/-- Which bytes a command folds does not depend on CRC_ACC. -/
theorem foldedBytes_crcAcc (s : State) (c : Word) (i : Instr) :
    foldedBytes { s with crcAcc := c } i = foldedBytes s i ∧ foldsBytes { s with crcAcc := c } i = foldsBytes s i := by
  cases i with
  | crcupd sp => cases sp <;> exact ⟨rfl, rfl⟩
  | _ => exact ⟨rfl, rfl⟩

/-- Commands that fold bytes, with the operands as they are, and then CRCFIN. -/
theorem execAll_folds {s : State} {l : List Instr} (h : ∀ i ∈ l, foldsBytes s i = true) (c : Word) :
    execAll (l ++ [.crcfin]) { s with crcAcc := c } = .next { s with
      crcAcc := crcAccum c (l.flatMap (foldedBytes s)),
      crcRes := crcAccum c (l.flatMap (foldedBytes s)) ^^^ 0xFFFFFFFF#32 } := by
  induction l generalizing c with
  | nil => rfl
  | cons i l ih =>
    obtain ⟨hbytes, hfolds⟩ := foldedBytes_crcAcc s c i
    have hfirst := exec_folds (hfolds.trans (h i List.mem_cons_self))
    rw [hbytes] at hfirst
    rw [List.cons_append, execAll, hfirst, List.flatMap_cons, crcAccum_append]
    exact ih (fun j hj => h j (List.mem_cons_of_mem i hj)) _

/-- Commands that fold bytes, the operands set before each. -/
theorem foldEach_folds {s : State} {l : List (Word × Word × Instr)}
    (h : ∀ p ∈ l, foldsBytes { s with arg0 := p.1, arg1 := p.2.1 } p.2.2 = true) (a n c : Word) :
    ∃ a' n', foldEach l { s with arg0 := a, arg1 := n, crcAcc := c } = .next { s with
      arg0 := a', arg1 := n',
      crcAcc := crcAccum c (l.flatMap fun p => foldedBytes { s with arg0 := p.1, arg1 := p.2.1 } p.2.2) } := by
  induction l generalizing a n c with
  | nil => exact ⟨a, n, rfl⟩
  | cons p l ih =>
    obtain ⟨a0, n0, i⟩ := p
    obtain ⟨hbytes, hfolds⟩ := foldedBytes_crcAcc { s with arg0 := a0, arg1 := n0 } c i
    have hfirst := exec_folds (hfolds.trans (h (a0, n0, i) List.mem_cons_self))
    rw [hbytes] at hfirst
    obtain ⟨a', n', hrest⟩ := ih (fun q hq => h q (List.mem_cons_of_mem _ hq)) a0 n0
      (crcAccum c (foldedBytes { s with arg0 := a0, arg1 := n0 } i))
    refine ⟨a', n', ?_⟩
    rw [foldEach, hfirst, List.flatMap_cons, crcAccum_append]
    exact hrest

/-- Settles O34: CRC_ACC runs through the bytes of the commands as through one list. -/
theorem crcOverPiecesIsCrcOfTheWhole : Obligations.CrcOverPiecesIsCrcOfTheWhole := by
  refine ⟨fun s l h => execAll_folds h 0xFFFFFFFF#32, ?_⟩
  rintro s l bytes h rfl
  obtain ⟨a, n, hfold⟩ := foldEach_folds h s.arg0 s.arg1 0xFFFFFFFF#32
  exact ⟨_, _, _, exec_crcinit s, hfold, exec_crcfin _, rfl⟩

/-- Settles O35: the values are computed. -/
theorem crcKnownValues : Obligations.CrcKnownValues :=
  ⟨by decide, by decide +kernel, by decide +kernel, by decide +kernel⟩

end Sys2Proof.Proofs

namespace Sys2Proof.Proofs

open Sys2Proof.Machine

/-! ## The written form of the commands (R64, R65) -/

/-- The digits that the spelling uses read back as their value, and none of them is a separator, a quote or a comment
sign. -/
theorem hexDigit_hexChar : ∀ n < 16, hexDigit (hexChar n) = some n ∧ separates (hexChar n) = false ∧
    hexChar n ≠ ';' ∧ hexChar n ≠ '"' ∧ hexChar n ≠ '\'' := by decide

/-- Two hexadecimal digits after 0x spell a byte. -/
theorem readImm8_hex (b : Byte) :
    readImm8 (.word ['0', 'x', hexChar (b.toNat / 16), hexChar (b.toNat % 16)]) = some b := by
  have hb := b.isLt
  have hhigh := (hexDigit_hexChar (b.toNat / 16) (by omega)).1
  have hlow := (hexDigit_hexChar (b.toNat % 16) (by omega)).1
  have hvalue : 16 * (16 * 0 + b.toNat / 16) + b.toNat % 16 = b.toNat := by omega
  simp only [readImm8, readNat, digits, hhigh, hlow, hvalue, show b.toNat / 16 < 16 by omega,
    show b.toNat % 16 < 16 by omega, if_true, Option.bind_some, show b.toNat < 256 from hb, BitVec.ofNat_toNat,
    BitVec.setWidth_eq]

/-- A character of a bare word is kept. -/
theorem lexLine_bare {c : Char} (hsep : separates c = false) (hcomment : c ≠ ';') (htext : c ≠ '"') (hquote : c ≠ '\'')
    (acc cs : List Char) : lexLine none acc (c :: cs) = lexLine none (c :: acc) cs := by
  rw [lexLine]
  · simp [hsep, hcomment, htext]
  · simp [hquote]

/-- The name of CRCB and what its immediate begins with. -/
theorem lexLine_crcb_start (cs : List Char) : lexLine none [] ('c' :: 'r' :: 'c' :: 'b' :: ' ' :: '0' :: 'x' :: cs) =
    (lexLine none ['x', '0'] cs).map ([.word ['c', 'r', 'c', 'b']] ++ ·) := by
  have hspace (rest : List Char) : lexLine none ['b', 'c', 'r', 'c'] (' ' :: rest) =
      (lexLine none [] rest).map ([.word ['c', 'r', 'c', 'b']] ++ ·) := rfl
  rw [lexLine_bare, lexLine_bare, lexLine_bare, lexLine_bare, hspace, lexLine_bare, lexLine_bare] <;> decide

theorem lexLine_crcb (b : Byte) : lexLine none [] (spellInstr (.crcb b)) = some
    [.word ['c', 'r', 'c', 'b'], .word ['0', 'x', hexChar (b.toNat / 16), hexChar (b.toNat % 16)]] := by
  have hb := b.isLt
  obtain ⟨-, hsep, hcomment, htext, hquote⟩ := hexDigit_hexChar (b.toNat / 16) (by omega)
  obtain ⟨-, hsep', hcomment', htext', hquote'⟩ := hexDigit_hexChar (b.toNat % 16) (by omega)
  refine (lexLine_crcb_start [hexChar (b.toNat / 16), hexChar (b.toNat % 16)]).trans ?_
  rw [lexLine_bare hsep hcomment htext hquote, lexLine_bare hsep' hcomment' htext' hquote']
  generalize hexChar (b.toNat / 16) = c
  generalize hexChar (b.toNat % 16) = d
  rfl

/-- Settles O6: the words of a plain command and the name of a space are read by the tables, the immediate of CRCB by its
two digits; the statement's inputs are its CMD write and a poll. -/
theorem writtenCommandsReadBack : Obligations.WrittenCommandsReadBack := by
  refine fun i => ⟨?_, rfl⟩
  cases i with
  | crcb b => 
    rw [readLine, lexLine_crcb]
    simp only [readStmt, readSingle, readImm8_hex]
    rfl
  | crcupd sp => cases sp <;> decide +kernel
  | _ => decide +kernel

end Sys2Proof.Proofs
